-- ==== Sys2Proof/Word.lean ====
section
/-! DEFINITION. The word types of the block (00_scope.md section 6): `u8` and `u16`, unsigned. -/

namespace Sys2Proof

/-- `u8`: one byte of the command stream, the response stream or a GPIO bank. -/
abbrev Byte := BitVec 8

/-- `u16`: the clock divisor and the length-minus-one field (20_memory.md R53). -/
abbrev Half := BitVec 16

end Sys2Proof
end

