-- ==== Sys2Proof/Config.lean ====
section
/-! DEFINITION. What an implementation fixes and what the spec leaves open.

The parameters of 00_scope.md R7 that have more than one value are the record `Params`, which State holds; the
parameters with one value are constants of Machine/Parameters.lean and Decode.lean.

The `opaque` constants are the FREE VALUES: they have no body, so nothing can be proved of what they are. Each is
applied to a counter of State, so that every draw is a value of its own (log 3 to 10, 22). -/

namespace Sys2Proof

/-- One of the two 8-bit groups of pins (00_scope.md section 7). -/
inductive Bank where
  | low
  | high
  deriving DecidableEq, Repr

/-- A clock edge on which data-out changes or data-in is sampled (30_encoding.md R74). -/
inductive Edge where
  | rising
  | falling
  deriving DecidableEq, Repr

/-- The transport's error. Its content is opaque to the block (60_exceptions.md R260, R262; log 27). -/
structure TransportError where
  code : Nat
  deriving DecidableEq, Repr, Inhabited

/-- `I2C_ADDR_POLICY`: what becomes of an I2C address above 0x7F (42_i2c.md R192, D33). -/
inductive AddrPolicy where
  | reject
  | truncate
  deriving DecidableEq, Repr

/-- The parameters of 00_scope.md R7 that a model may set otherwise. No step changes them (log 14). -/
structure Params where
  /-- `GPIO_RMW_ATOMIC` (D25). -/
  gpioRmwAtomic : Bool
  /-- `LOOPBACK_ROLLBACK` (D38). -/
  loopbackRollback : Bool
  /-- `PIN_RELEASE` (D42). -/
  pinRelease : Bool
  /-- `I2C_ADDR_POLICY` (D33). -/
  i2cAddrPolicy : AddrPolicy
  /-- `OPEN_CLEAN` (D43). -/
  openClean : Bool
  deriving DecidableEq, Repr

/-- The values that 00_scope.md R7 states. -/
def Params.standard : Params where
  gpioRmwAtomic := false
  loopbackRollback := false
  pinRelease := false
  i2cAddrPolicy := .reject
  openClean := true

/-- FREE VALUE: the chip oracle's response byte number `n` (41_command_encoder.md R160). -/
opaque Config.responseByte : Nat → Byte

/-- FREE VALUE: the outcome of transport call number `n`, `none` for `Ok` (00_scope.md R4, U6). -/
opaque Config.transportOutcome : Nat → Option TransportError

/-- FREE VALUE: whether a `Receive` that the spec lets complete or hang completes (R161, R164; U9, U10). -/
opaque Config.receiveCompletes : Nat → Bool

/-- FREE VALUE: how many bytes a failed `Receive` removed, before it is cut to 0..n (R164, U8). -/
opaque Config.bytesLost : Nat → Nat

/-- FREE VALUE: which of the clients that have a step moves (20_memory.md R56, U17). -/
opaque Config.clientPicked : Nat → Nat

/-- FREE VALUE: whether the transport collaborator can open the device (40_session.md R101, U25). -/
opaque Config.deviceOpens : Nat → Bool

/-- FREE VALUES: the fields of an unspecified device state (41_command_encoder.md R163, 70_reset_and_hazards.md
R291; U7, U12). -/
opaque Config.anyLatch : Nat → Bank → Byte
opaque Config.anyDir : Nat → Bank → Byte
opaque Config.anyLoopback : Nat → Bool
opaque Config.anyDivisor : Nat → Half
opaque Config.anyDiv5 : Nat → Bool
opaque Config.anyThreePhase : Nat → Bool
opaque Config.anyAdaptive : Nat → Bool
opaque Config.anyRx : Nat → List Byte
opaque Config.anyFlushed : Nat → Nat

/-- FREE VALUE: the bus clock in Hz while divide-by-5, 3-phase or adaptive clocking is on (R141, R142, R144; U15).
Its arguments are the divisor and the three modes. -/
opaque Config.busClockUnstated : Half → Bool → Bool → Bool → Rat

end Sys2Proof
end

