-- ==== Sys2Proof/Syntax.lean ====
section
/-! DEFINITION. The commands of the chip: one constructor for each row of spec/opcode_table.json (30_encoding.md
R75), with the operands that its rule of 41_command_encoder.md names. -/

namespace Sys2Proof

/-- An MPSSE command. `p` is a payload, `n` a byte count, `k` a bit count, all as the rules write them: the
length-minus-one coding is the encoder's (R72, R73). -/
inductive Instr where
  /-- 0x10, R147. -/
  | msbBytesOutRising (p : List Byte)
  /-- 0x11, R148. -/
  | msbBytesOutFalling (p : List Byte)
  /-- 0x12, R154. -/
  | msbBitsOutRising (k : Nat) (data : Byte)
  /-- 0x13, R155. -/
  | msbBitsOutFalling (k : Nat) (data : Byte)
  /-- 0x20, R149. -/
  | msbBytesInRising (n : Nat)
  /-- 0x22, R156. -/
  | msbBitsInRising (k : Nat)
  /-- 0x24, R150. -/
  | msbBytesInFalling (n : Nat)
  /-- 0x26, R157. -/
  | msbBitsInFalling (k : Nat)
  /-- 0x31, R151. -/
  | msbBytesInoutWfRr (p : List Byte)
  /-- 0x34, R152. -/
  | msbBytesInoutWrRf (p : List Byte)
  /-- 0x80, R131. -/
  | setBitsLow (value dir : Byte)
  /-- 0x81, R134. -/
  | getBitsLow
  /-- 0x82, R132. -/
  | setBitsHigh (value dir : Byte)
  /-- 0x83, R135. -/
  | getBitsHigh
  /-- 0x84, R136. -/
  | loopbackEnable
  /-- 0x85, R137. -/
  | loopbackDisable
  /-- 0x86, R138. -/
  | setClockDivisor (d : Half)
  /-- 0x87, R139. -/
  | sendImmediate
  /-- 0x8A, R140. -/
  | disableDiv5
  /-- 0x8B, R141. -/
  | enableDiv5
  /-- 0x8C, R142. -/
  | enable3Phase
  /-- 0x8D, R143. -/
  | disable3Phase
  /-- 0x96, R144. -/
  | enableAdaptive
  /-- 0x97, R145. -/
  | disableAdaptive
  deriving DecidableEq, Repr

end Sys2Proof
end

