-- ==== Sys2Proof/WellFormed.lean ====
section
/-! DEFINITION. Which commands have an encoding: the ranges that 30_encoding.md R72 and R73 give the counts. -/

namespace Sys2Proof

/-- A byte count of a clock-bytes command: 1..65 536 (R72). -/
def byteCountOk (n : Nat) : Bool := decide (1 ≤ n) && decide (n ≤ 65536)

/-- A bit count of a clock-bits command: 1..8 (R73). -/
def bitCountOk (k : Nat) : Bool := decide (1 ≤ k) && decide (k ≤ 8)

/-- The command has an encoding (R71 to R73). Every other operand is a whole byte or a whole u16 (R80). -/
def Instr.wellFormed : Instr → Bool
  | .msbBytesOutRising p => byteCountOk p.length
  | .msbBytesOutFalling p => byteCountOk p.length
  | .msbBitsOutRising k _ => bitCountOk k
  | .msbBitsOutFalling k _ => bitCountOk k
  | .msbBytesInRising n => byteCountOk n
  | .msbBitsInRising k => bitCountOk k
  | .msbBytesInFalling n => byteCountOk n
  | .msbBitsInFalling k => bitCountOk k
  | .msbBytesInoutWfRr p => byteCountOk p.length
  | .msbBytesInoutWrRf p => byteCountOk p.length
  | .setBitsLow _ _ => true
  | .getBitsLow => true
  | .setBitsHigh _ _ => true
  | .getBitsHigh => true
  | .loopbackEnable => true
  | .loopbackDisable => true
  | .setClockDivisor _ => true
  | .sendImmediate => true
  | .disableDiv5 => true
  | .enableDiv5 => true
  | .enable3Phase => true
  | .disable3Phase => true
  | .enableAdaptive => true
  | .disableAdaptive => true

end Sys2Proof
end

