-- ==== Sys2Proof/Decode.lean ====
section
/-! DEFINITION. The command encoding of 30_encoding.md, both ways: the decoder, total on any bytes and rejecting by
name, and then the encoder. Here too the byte-order and length helpers of 20_memory.md R53 and R72, and the command
length function of R77. -/

namespace Sys2Proof

/-! ### Byte order (R53) -/

/-- `lo8(v) = v[7:0]` (00_scope.md section 6). -/
def lo8 (v : Half) : Byte := v.extractLsb' 0 8

/-- `hi8(v) = v[15:8]`. -/
def hi8 (v : Half) : Byte := v.extractLsb' 8 8

/-- `put16`: the low byte comes first (R53). -/
def put16 (v : Half) : List Byte := [lo8 v, hi8 v]

/-- `get16(b0, b1) = b0 + 256 * b1` (R53). -/
def get16 (b0 b1 : Byte) : Half := b1 ++ b0

/-! ### Opcodes (R75) -/

/-- `OPC_INOUT_WF_RR`, full duplex, write falling, read rising (R7, D13; PRESUMED by the spec, log 23). -/
def Config.opcInoutWfRr : Byte := 0x31

/-- `OPC_INOUT_WR_RF`, full duplex, write rising, read falling (R7, D13; PRESUMED by the spec, log 23). -/
def Config.opcInoutWrRf : Byte := 0x34

/-- The opcode byte of a command (the opcode map of R75). -/
def Instr.opcode : Instr → Byte
  | .msbBytesOutRising _ => 0x10
  | .msbBytesOutFalling _ => 0x11
  | .msbBitsOutRising _ _ => 0x12
  | .msbBitsOutFalling _ _ => 0x13
  | .msbBytesInRising _ => 0x20
  | .msbBitsInRising _ => 0x22
  | .msbBytesInFalling _ => 0x24
  | .msbBitsInFalling _ => 0x26
  | .msbBytesInoutWfRr _ => Config.opcInoutWfRr
  | .msbBytesInoutWrRf _ => Config.opcInoutWrRf
  | .setBitsLow _ _ => 0x80
  | .getBitsLow => 0x81
  | .setBitsHigh _ _ => 0x82
  | .getBitsHigh => 0x83
  | .loopbackEnable => 0x84
  | .loopbackDisable => 0x85
  | .setClockDivisor _ => 0x86
  | .sendImmediate => 0x87
  | .disableDiv5 => 0x8A
  | .enableDiv5 => 0x8B
  | .enable3Phase => 0x8C
  | .disable3Phase => 0x8D
  | .enableAdaptive => 0x96
  | .disableAdaptive => 0x97

/-- The command formats of R71. -/
inductive Format where
  /-- Opcode only. -/
  | f1
  /-- Bank set. -/
  | fb
  /-- Divisor. -/
  | fd
  /-- Bytes out. -/
  | fxo
  /-- Bytes in. -/
  | fxi
  /-- Bytes in and out. -/
  | fxio
  /-- Bits out. -/
  | fbo
  /-- Bits in. -/
  | fbi
  deriving DecidableEq, Repr

/-- The format of a command (R71). -/
def Instr.format : Instr → Format
  | .msbBytesOutRising _ => .fxo
  | .msbBytesOutFalling _ => .fxo
  | .msbBitsOutRising _ _ => .fbo
  | .msbBitsOutFalling _ _ => .fbo
  | .msbBytesInRising _ => .fxi
  | .msbBitsInRising _ => .fbi
  | .msbBytesInFalling _ => .fxi
  | .msbBitsInFalling _ => .fbi
  | .msbBytesInoutWfRr _ => .fxio
  | .msbBytesInoutWrRf _ => .fxio
  | .setBitsLow _ _ => .fb
  | .getBitsLow => .f1
  | .setBitsHigh _ _ => .fb
  | .getBitsHigh => .f1
  | .loopbackEnable => .f1
  | .loopbackDisable => .f1
  | .setClockDivisor _ => .fd
  | .sendImmediate => .f1
  | .disableDiv5 => .f1
  | .enableDiv5 => .f1
  | .enable3Phase => .f1
  | .disable3Phase => .f1
  | .enableAdaptive => .f1
  | .disableAdaptive => .f1

/-! ### Decoding -/

/-- What the decoder answers at the head of a byte stream. -/
inductive Decoded where
  /-- A whole command, and the bytes after it. -/
  | command (i : Instr) (rest : List Byte)
  /-- The stream ends before the command does (R51, R77). -/
  | truncated
  /-- The byte in opcode position is none of R75: "invalid" (R76). -/
  | unknownOpcode (op : Byte)
  /-- A bit-length byte 0x08..0xFF: reserved (R73, R76). -/
  | reservedBitLength (l : Byte)
  deriving DecidableEq, Repr

/-- Formats FXO and FXIO after the opcode: a length-minus-one field and that many payload bytes (R71, R72). -/
def decodePayload (mk : List Byte → Instr) : List Byte → Decoded
  | b1 :: b2 :: tl =>
    let n := (get16 b1 b2).toNat + 1
    if n ≤ tl.length then .command (mk (tl.take n)) (tl.drop n) else .truncated
  | _ => .truncated

/-- Format FXI after the opcode: a length-minus-one field (R71, R72). -/
def decodeCount (mk : Nat → Instr) : List Byte → Decoded
  | b1 :: b2 :: tl => .command (mk ((get16 b1 b2).toNat + 1)) tl
  | _ => .truncated

/-- Format FBO after the opcode: a bit-length byte and a data byte (R71, R73). -/
def decodeBitsOut (mk : Nat → Byte → Instr) : List Byte → Decoded
  | l :: data :: tl => if l.toNat ≤ 7 then .command (mk (l.toNat + 1) data) tl else .reservedBitLength l
  | _ => .truncated

/-- Format FBI after the opcode: a bit-length byte (R71, R73). -/
def decodeBitsIn (mk : Nat → Instr) : List Byte → Decoded
  | l :: tl => if l.toNat ≤ 7 then .command (mk (l.toNat + 1)) tl else .reservedBitLength l
  | [] => .truncated

/-- Format FB after the opcode: the value byte and the direction byte (R71, R80). -/
def decodeBank (mk : Byte → Byte → Instr) : List Byte → Decoded
  | value :: dir :: tl => .command (mk value dir) tl
  | _ => .truncated

/-- Format FD after the opcode: the divisor, low byte first (R71, R80). -/
def decodeDivisor : List Byte → Decoded
  | b1 :: b2 :: tl => .command (.setClockDivisor (get16 b1 b2)) tl
  | _ => .truncated

/-- The command at the head of a byte stream. The opcode alone fixes the format (R70); a byte that is no opcode of
R75 is invalid (R76). -/
def decode : List Byte → Decoded
  | [] => .truncated
  | op :: tl =>
    if op = 0x10 then decodePayload .msbBytesOutRising tl
    else if op = 0x11 then decodePayload .msbBytesOutFalling tl
    else if op = 0x12 then decodeBitsOut .msbBitsOutRising tl
    else if op = 0x13 then decodeBitsOut .msbBitsOutFalling tl
    else if op = 0x20 then decodeCount .msbBytesInRising tl
    else if op = 0x22 then decodeBitsIn .msbBitsInRising tl
    else if op = 0x24 then decodeCount .msbBytesInFalling tl
    else if op = 0x26 then decodeBitsIn .msbBitsInFalling tl
    else if op = Config.opcInoutWfRr then decodePayload .msbBytesInoutWfRr tl
    else if op = Config.opcInoutWrRf then decodePayload .msbBytesInoutWrRf tl
    else if op = 0x80 then decodeBank .setBitsLow tl
    else if op = 0x81 then .command .getBitsLow tl
    else if op = 0x82 then decodeBank .setBitsHigh tl
    else if op = 0x83 then .command .getBitsHigh tl
    else if op = 0x84 then .command .loopbackEnable tl
    else if op = 0x85 then .command .loopbackDisable tl
    else if op = 0x86 then decodeDivisor tl
    else if op = 0x87 then .command .sendImmediate tl
    else if op = 0x8A then .command .disableDiv5 tl
    else if op = 0x8B then .command .enableDiv5 tl
    else if op = 0x8C then .command .enable3Phase tl
    else if op = 0x8D then .command .disable3Phase tl
    else if op = 0x96 then .command .enableAdaptive tl
    else if op = 0x97 then .command .disableAdaptive tl
    else .unknownOpcode op

/-- The commands of a byte list that is a whole number of commands, `none` where it is not (R51, R162). The fuel
bounds the number of commands; the length of the list is enough, since a command has at least one byte. -/
def decodeAllFuel : Nat → List Byte → Option (List Instr)
  | _, [] => some []
  | 0, _ :: _ => none
  | fuel + 1, bs =>
    match decode bs with
    | .command i rest => (decodeAllFuel fuel rest).map (i :: ·)
    | _ => none

/-- The commands of a byte list that is a whole number of commands (R51). -/
def decodeAll (bs : List Byte) : Option (List Instr) := decodeAllFuel bs.length bs

/-- `cmdLen` of R77: the length of the command at the head of a byte stream, from its opcode and, for FXO and FXIO,
its length field. `none` is the rule's "invalid", and the stream too short to hold what the length is read from. -/
def cmdLen : List Byte → Option Nat
  | [] => none
  | op :: tl =>
    if op ∈ ([0x81, 0x83, 0x84, 0x85, 0x87, 0x8A, 0x8B, 0x8C, 0x8D, 0x96, 0x97] : List Byte) then some 1
    else if op ∈ ([0x80, 0x82, 0x86] : List Byte) then some 3
    else if op ∈ ([0x20, 0x24] : List Byte) then some 3
    else if op ∈ ([0x10, 0x11, Config.opcInoutWfRr, Config.opcInoutWrRf] : List Byte) then
      match tl with
      | b1 :: b2 :: _ => some (3 + ((get16 b1 b2).toNat + 1))
      | _ => none
    else if op ∈ ([0x12, 0x13] : List Byte) then some 3
    else if op ∈ ([0x22, 0x26] : List Byte) then some 2
    else none

/-! ### Encoding -/

/-- Length-minus-one of a byte count, little-endian: `lo8(n-1), hi8(n-1)` (R72). -/
def encodeByteCount (n : Nat) : List Byte := put16 (BitVec.ofNat 16 (n - 1))

/-- The bit-length byte `k - 1` (R73). -/
def encodeBitCount (k : Nat) : Byte := BitVec.ofNat 8 (k - 1)

/-- The operand bytes of a command, by its format (R71). -/
def Instr.operands : Instr → List Byte
  | .msbBytesOutRising p => encodeByteCount p.length ++ p
  | .msbBytesOutFalling p => encodeByteCount p.length ++ p
  | .msbBitsOutRising k data => [encodeBitCount k, data]
  | .msbBitsOutFalling k data => [encodeBitCount k, data]
  | .msbBytesInRising n => encodeByteCount n
  | .msbBitsInRising k => [encodeBitCount k]
  | .msbBytesInFalling n => encodeByteCount n
  | .msbBitsInFalling k => [encodeBitCount k]
  | .msbBytesInoutWfRr p => encodeByteCount p.length ++ p
  | .msbBytesInoutWrRf p => encodeByteCount p.length ++ p
  | .setBitsLow value dir => [value, dir]
  | .getBitsLow => []
  | .setBitsHigh value dir => [value, dir]
  | .getBitsHigh => []
  | .loopbackEnable => []
  | .loopbackDisable => []
  | .setClockDivisor d => put16 d
  | .sendImmediate => []
  | .disableDiv5 => []
  | .enableDiv5 => []
  | .enable3Phase => []
  | .disable3Phase => []
  | .enableAdaptive => []
  | .disableAdaptive => []

/-- The bytes of a well-formed command: the opcode byte and then the operand bytes (R70). -/
def encode (i : Instr) : List Byte := i.opcode :: i.operands

/-- `resp(c)` of R158: how many response bytes a command appends. -/
def Instr.responses : Instr → Nat
  | .msbBytesOutRising _ => 0
  | .msbBytesOutFalling _ => 0
  | .msbBitsOutRising _ _ => 0
  | .msbBitsOutFalling _ _ => 0
  | .msbBytesInRising n => n
  | .msbBitsInRising _ => 1
  | .msbBytesInFalling n => n
  | .msbBitsInFalling _ => 1
  | .msbBytesInoutWfRr p => p.length
  | .msbBytesInoutWrRf p => p.length
  | .setBitsLow _ _ => 0
  | .getBitsLow => 1
  | .setBitsHigh _ _ => 0
  | .getBitsHigh => 1
  | .loopbackEnable => 0
  | .loopbackDisable => 0
  | .setClockDivisor _ => 0
  | .sendImmediate => 0
  | .disableDiv5 => 0
  | .enableDiv5 => 0
  | .enable3Phase => 0
  | .disable3Phase => 0
  | .enableAdaptive => 0
  | .disableAdaptive => 0

/-- `respCount` of R158: the response bytes of a list of commands. -/
def respCount (is : List Instr) : Nat := (is.map Instr.responses).sum

/-! ### The opcode table's words -/

/-- The bytes of the instruction that spec/opcode_table.json numbers `w` in `nbits` bits: byte `j` is bits
`8j+7 .. 8j`, the bits from `nbits` on are 0, and there are as many bytes as the command has (R77); three where its
head is no command. -/
def tableBytes (nbits w : Nat) : List Byte :=
  let at_ : Nat → Byte := fun j => BitVec.ofNat 8 ((w % 2 ^ nbits) >>> (8 * j))
  let head := [at_ 0, at_ 1, at_ 2]
  match cmdLen head with
  | some len => (List.range len).map at_
  | none => head

/-- The instruction the decoder reads from the table's word `w`. -/
def decodeTableWord (nbits w : Nat) : Option Instr :=
  match decode (tableBytes nbits w) with
  | .command i _ => some i
  | _ => none

end Sys2Proof
end

