-- ==== Sys2Proof/Machine/State.lean ====
section
/-! DEFINITION. The state of the machine as plain data: the session state `S` and the device state `D` of
10_state.md, the command stream, the clients with their handles and the operation each is running, the history, and
the model's own inputs and free-value counters. INVENTORY.md lists every piece with its rule and its reset value. -/

namespace Sys2Proof.Machine

/-! ### Session state `S` (10_state.md section 2) -/

/-- The SPI speed classes (40_session.md R105). -/
inductive SpiSpeed where
  | auto | k500 | m1 | m2 | m2_5 | m3 | m5 | m10 | m20
  deriving DecidableEq, Repr

/-- The I2C speed classes (40_session.md R105). -/
inductive I2cSpeed where
  | auto | k100 | k400
  deriving DecidableEq, Repr

/-- `S.busMode` (R24). The stored speed is the resolved one. -/
inductive BusMode where
  | uncommitted
  | spi (speed : SpiSpeed)
  | i2c (speed : I2cSpeed)
  deriving DecidableEq, Repr

/-- `S.lock` (R26): free, or held by one client. -/
inductive Lock where
  | free
  | held (client : Nat)
  deriving DecidableEq, Repr

/-- The session state `S` (R22). -/
structure Session where
  /-- Whether loopback was last requested (R23). -/
  loopback : Bool
  /-- The committed bus (R24). -/
  busMode : BusMode
  /-- One flag per arbitrated pin, true for available (R25). -/
  pinAvailable : Vector Bool 12
  /-- The one mutual-exclusion lock (R26). -/
  lock : Lock
  deriving DecidableEq, Repr

/-! ### Device state `D` (10_state.md section 4) -/

/-- One value for each of the two banks. -/
structure PerBank (α : Type) where
  low : α
  high : α
  deriving DecidableEq, Repr

/-- The device state `D`. -/
structure Device where
  /-- The output value of each bank (R30). -/
  latch : PerBank Byte
  /-- The direction of each bank's pins, 1 for output (R30, D3). -/
  dir : PerBank Byte
  /-- The chip's loopback mode (R31). -/
  loopback : Bool
  /-- The clock divisor. `none` is the rule's "no value": R32 says "A model holds it as "no value"" until the first
  bus request writes it (log 11). -/
  divisor : Option Half
  /-- Divide-by-5 clocking (R33). -/
  div5 : Bool
  /-- 3-phase clocking (R33). -/
  threePhase : Bool
  /-- Adaptive clocking (R33). -/
  adaptive : Bool
  /-- Response bytes produced and not yet delivered (R34). -/
  rx : List Byte
  /-- How many bytes at the front of `rx` are marked deliverable (41_command_encoder.md R139, R161; log 12). -/
  flushed : Nat
  /-- Every `Send` and `Receive` since `open` has returned `Ok` (R35). -/
  sync : Bool
  deriving DecidableEq, Repr

/-! ### Handles (10_state.md section 3) -/

/-- The two SPI modes a handle can hold (R28). -/
inductive SpiMode where
  | mode0
  | mode2
  deriving DecidableEq, Repr

/-- `SpiBusHandle` (R27). -/
structure SpiHandle where
  speed : SpiSpeed
  mode : SpiMode
  deriving DecidableEq, Repr

/-- `I2cBusHandle` (R27). -/
structure I2cHandle where
  speed : I2cSpeed
  deriving DecidableEq, Repr

/-- `GpioPinHandle` (R27). -/
structure PinHandle where
  bank : Bank
  bit : Nat
  deriving DecidableEq, Repr

/-! ### Errors and results (60_exceptions.md R260) -/

/-- The error values. -/
inductive Error where
  | transport (e : TransportError)
  | invalidParams
  | invalidClock
  | busBusy
  | i2cNoAck
  | gpioPinBusy
  | gpioInvalidPin
  | spiModeNotSupported
  | init (e : TransportError)
  deriving DecidableEq, Repr

/-- The value an operation returns with `Ok`. A handle is named by its place in its client's list. -/
inductive Value where
  | unit
  | session
  | spiHandle (h : Nat)
  | i2cHandle (h : Nat)
  | pinHandle (h : Nat)
  | bytes (bs : List Byte)
  deriving DecidableEq, Repr

/-- What an operation returns. -/
inductive Result where
  | ok (v : Value)
  | err (e : Error)
  deriving DecidableEq, Repr

/-! ### Operations in progress -/

/-- The I2C engine's phase variable (42_i2c.md R180). -/
inductive Phase where
  | idle | start | address | write | repeatedStart | read | stop
  deriving DecidableEq, Repr

/-- A call of an operation of 00_scope.md section 4. `h` names a handle of the calling client. `dropPin` is the end
of a pin handle's lifetime (40_session.md R112; log 20). -/
inductive Call where
  | openSession
  | setLoopback (enabled : Bool)
  | requestSpi (speed : SpiSpeed)
  | requestI2c (speed : I2cSpeed)
  | acquirePin (bit : Nat) (bank : Bank)
  | teardown
  | i2cWrite (h : Nat) (addr : Byte) (bytes : List Byte)
  | i2cRead (h : Nat) (addr : Byte) (n : Nat)
  | i2cWriteThenRead (h : Nat) (addr : Byte) (bytes : List Byte) (n : Nat)
  | spiSetMode (h : Nat) (cpol cpha : Bool)
  | spiTransfer (h : Nat) (p : List Byte)
  | spiWrite (h : Nat) (p : List Byte)
  | gpioSetHigh (h : Nat)
  | gpioSetLow (h : Nat)
  | dropPin (h : Nat)
  deriving DecidableEq, Repr

/-- One action of an operation's pseudocode. The actions an operation has left are its position in that pseudocode
(10_state.md R21). What each does is in Machine/Operations.lean. -/
inductive Act where
  /-- Take the session lock, once it is free (R55). -/
  | takeLock
  /-- End a lock region that is not the operation's last (44_gpio.md R242). -/
  | releaseLock
  /-- `phase <- ph; Send(bs)`; a transport error ends the operation. -/
  | send (ph : Phase) (bs : List Byte)
  /-- The STOP of `abortNack`, whose failure is ignored (42_i2c.md R193). -/
  | stopAfterNack
  /-- `Receive(1)` and the acknowledge check (42_i2c.md R185, R186). -/
  | ack
  /-- `Receive(n)` into the operation's buffer. -/
  | read (n : Nat)
  /-- `Receive(1)` of a bank, and the write of that bank with the pin's bit at `level` (44_gpio.md R242). -/
  | readBank (bank : Bank) (bit : Nat) (level : Bool)
  /-- The body of `setLoopback` under the lock (40_session.md R102). -/
  | writeLoopback (enabled : Bool)
  /-- The `Send` of `setLoopback`, with the old flag for the rollback (R102). -/
  | sendLoopback (enabled old : Bool)
  /-- The match of `requestSpi` on `S.busMode` (40_session.md R108). -/
  | matchSpi (speed : SpiSpeed)
  /-- The match of `requestI2c` on `S.busMode` (40_session.md R109). -/
  | matchI2c (speed : I2cSpeed)
  /-- `S.busMode <- b`. -/
  | commit (b : BusMode)
  /-- Return a new SPI handle. -/
  | giveSpi (speed : SpiSpeed)
  /-- Return a new I2C handle. -/
  | giveI2c (speed : I2cSpeed)
  /-- The body of `acquirePin` under the lock (40_session.md R111). -/
  | claimPin (bit : Nat) (bank : Bank)
  /-- `S.pinAvailable[idx] <- true` (40_session.md R112). -/
  | freePin (idx : Nat)
  /-- The body of `setMode` (43_spi.md R222). -/
  | setMode (h : Nat) (cpol cpha : Bool)
  /-- The transport collaborator opens the device (40_session.md R101, 70_reset_and_hazards.md R293). -/
  | openDevice
  /-- The `Send` of `open` (40_session.md R100). -/
  | sendOpen
  /-- The making of `S` and the return of the session, in one step (R100, 70_reset_and_hazards.md R293). -/
  | makeSession
  /-- `return v`. -/
  | done (v : Value)
  /-- Return the bytes read. -/
  | doneRead
  /-- `raise e`. -/
  | raise (e : Error)
  deriving DecidableEq, Repr

/-- An operation in progress. -/
structure Running where
  /-- The call it runs. -/
  call : Call
  /-- The phase variable of the I2C engine, `idle` outside a transaction (R180). -/
  phase : Phase
  /-- What is left of its pseudocode (R21). -/
  todo : List Act
  /-- The bytes it has read (`buf` of 42_i2c.md R196). -/
  buf : List Byte
  /-- Its `Receive` hangs: it has no step any more (R161, R164). -/
  hung : Bool
  deriving DecidableEq, Repr

/-- A client (00_scope.md R3, 60_exceptions.md R280). That the calls it has still to make are a finite list, which no step
extends, is the model's choice: in a run in which nothing is added from outside, the starvation of
70_reset_and_hazards.md R305 cannot last for ever, with no fairness assumed (log 38). -/
structure Client where
  /-- The calls it has still to make: the model's input (log 2), finite (log 38). -/
  calls : List Call
  /-- The operation it is running. -/
  running : Option Running
  /-- Its SPI handles. -/
  spi : List SpiHandle
  /-- Its I2C handles. -/
  i2c : List I2cHandle
  /-- Its pin handles; a slot is emptied at the end of the handle's lifetime. -/
  pins : List (Option PinHandle)
  /-- What its operations have returned, oldest first (R6). -/
  results : List Result
  deriving DecidableEq, Repr

/-! ### History (00_scope.md R6) -/

/-- The outcome of a `Receive`. -/
inductive Received where
  | ok (bs : List Byte)
  | err (e : TransportError)
  deriving DecidableEq, Repr

/-- A transport event, with the client that made the call (the model's annotation, log 26), and the `Halt` of
60_exceptions.md R271. -/
inductive Event where
  | send (client : Nat) (bs : List Byte) (error : Option TransportError)
  | receive (client : Nat) (n : Nat) (outcome : Received)
  | halt
  deriving DecidableEq, Repr

/-- What one clock command did on the data lines: the bits driven onto data-out and the bits sampled from data-in, in
the order of the clock cycles, each with its edge (30_encoding.md R74, 20_memory.md R54; the model's own record, log
13). -/
structure Serial where
  driven : Option (Edge × List Bool)
  sampled : Option (Edge × List Bool)
  deriving DecidableEq, Repr

/-! ### Free values -/

/-- A source of free values: the answers given from outside, used first, and the number of opaque answers used after
them (log 33). -/
structure Feed (α : Type) where
  given : List α
  used : Nat
  deriving DecidableEq, Repr

/-- The free values of the machine, each kind with a source of its own (Config.lean). -/
structure Oracle where
  response : Feed Byte
  outcome : Feed (Option TransportError)
  completes : Feed Bool
  lost : Feed Nat
  pick : Feed Nat
  opens : Feed Bool
  /-- How many unspecified device states have been drawn. -/
  unspecified : Nat
  deriving DecidableEq, Repr

/-! ### The state -/

/-- The whole machine. -/
structure State where
  /-- The parameters of 00_scope.md R7 with more than one value. -/
  params : Params
  /-- `S`, absent before `open` and after teardown (R37, R113). -/
  session : Option Session
  /-- `D`. -/
  device : Device
  /-- The bytes of the command stream that the chip has not executed yet (20_memory.md R51). -/
  stream : List Byte
  /-- The client threads. -/
  clients : List Client
  /-- The transport events so far, oldest first (R6). -/
  history : List Event
  /-- What the clock commands did on the data lines, oldest first (log 13). -/
  serial : List Serial
  /-- The free values (log 33). -/
  oracle : Oracle
  /-- The run has halted: the device could not be opened (60_exceptions.md R271). -/
  halted : Bool
  deriving DecidableEq, Repr

/-- The session that a successful `open` makes (40_session.md R100). -/
def Session.fresh : Session where
  loopback := false
  busMode := .uncommitted
  pinAvailable := Vector.replicate 12 true
  lock := .free

/-- The device after a successful `open` (10_state.md R37). -/
def Device.afterOpen : Device where
  latch := ⟨0x00, 0x00⟩
  dir := ⟨0xFF, 0xFF⟩
  loopback := false
  divisor := none
  div5 := false
  threePhase := false
  adaptive := false
  rx := []
  flushed := 0
  sync := true

/-- A client that has made no call and holds no handle. -/
def Client.fresh : Client where
  calls := []
  running := none
  spi := []
  i2c := []
  pins := []
  results := []

/-- No answer given from outside, no opaque answer used. -/
def Feed.untouched (α : Type) : Feed α where
  given := []
  used := 0

/-- The free values of a machine that has drawn none. -/
def Oracle.untouched : Oracle where
  response := Feed.untouched Byte
  outcome := Feed.untouched (Option TransportError)
  completes := Feed.untouched Bool
  lost := Feed.untouched Nat
  pick := Feed.untouched Nat
  opens := Feed.untouched Bool
  unspecified := 0

/-- The machine right after reset, which is a successful `open` (70_reset_and_hazards.md R290): the table of 10_state.md
R37. One client, the least that `NCLIENTS >= 1` admits (log 15). The history and the client's results start empty: the
`Send` of that `open` and the session it returned are not in them (the model's choice, log 35). -/
def State.reset : State where
  params := Params.standard
  session := some Session.fresh
  device := Device.afterOpen
  stream := []
  clients := [Client.fresh]
  history := []
  serial := []
  oracle := Oracle.untouched
  halted := false

/-! ### How a step can stop -/

/-- Why the machine stops. -/
inductive Fault where
  /-- The device could not be opened and the run has halted (60_exceptions.md R271, U25). Raised by every step after
  the `Halt` of the history. Safe: the spec gives such a run no further step. -/
  | halted
  /-- Some client still has work and no agent has a step: a hung `Receive` and the clients behind its lock
  (41_command_encoder.md R161, R164; U9, U10), or a call that has no step (40_session.md R113, 60_exceptions.md R277).
  Raised by the scheduler. Safe: the model stops where the spec gives no step. -/
  | stuck
  deriving DecidableEq, Repr

/-- Why the machine gives the bytes at the head of the command stream no meaning. -/
inductive Refusal where
  /-- A command without a meaning in this model. No arm raises it. Safe. -/
  | notModelled (mnemonic : String)
  /-- A byte in opcode position that is none of 30_encoding.md R75 (R76, U13). Raised by the fetch. Safe. -/
  | unknownOpcode (op : Byte)
  /-- A bit-length byte 0x08..0xFF (30_encoding.md R73, R76; U14). Raised by the fetch. Safe. -/
  | reservedBitLength (l : Byte)
  deriving DecidableEq, Repr

end Sys2Proof.Machine
end

