-- ==== Sys2Proof/Machine/Ops.lean ====
section
/-! DEFINITION. The named operations over the state: the banks and configuration fields of `D`, the response queue,
the free values, the session and the clients, and the one way an operation ends, with a value or with an error.

The block has no trap (60_exceptions.md R274). What stands in its place is the end of an operation: `raise E` releases
the lock if the caller holds it and returns `Err(E)` (R261), and `return v` does the same with `Ok(v)` (R55). Both are
`State.finish`. -/

namespace Sys2Proof.Machine

/-! ### Banks (10_state.md R30) -/

/-- The value of one bank. -/
def PerBank.get {α : Type} (v : PerBank α) : Bank → α
  | .low => v.low
  | .high => v.high

/-- The values with one bank's replaced. -/
def PerBank.set {α : Type} (v : PerBank α) : Bank → α → PerBank α
  | .low, x => { v with low := x }
  | .high, x => { v with high := x }

/-- A bank set writes one whole bank, value and direction together (20_memory.md R60). -/
def Device.setBank (d : Device) (b : Bank) (value dir : Byte) : Device :=
  { d with latch := d.latch.set b value, dir := d.dir.set b dir }

/-- The level pin `i` of bank `b` drives: its latch bit if it is an output, nothing if it is an input (R30, R131). -/
def Device.drives (d : Device) (b : Bank) (i : Nat) : Option Bool :=
  if (d.dir.get b).getLsbD i then some ((d.latch.get b).getLsbD i) else none

/-! ### Configuration fields (R31 to R33) -/

/-- `D.loopback <- v`. -/
def Device.setLoopback (d : Device) (v : Bool) : Device := { d with loopback := v }

/-- `D.divisor <- v`. -/
def Device.setDivisor (d : Device) (v : Half) : Device := { d with divisor := some v }

/-- `D.div5 <- v`. -/
def Device.setDiv5 (d : Device) (v : Bool) : Device := { d with div5 := v }

/-- `D.threePhase <- v`. -/
def Device.setThreePhase (d : Device) (v : Bool) : Device := { d with threePhase := v }

/-- `D.adaptive <- v`. -/
def Device.setAdaptive (d : Device) (v : Bool) : Device := { d with adaptive := v }

/-! ### The response queue (R34, R38) -/

/-- `D.rx <- D.rx ++ bs`: the bytes are produced and not yet deliverable (41_command_encoder.md R158, R161). -/
def Device.respond (d : Device) (bs : List Byte) : Device := { d with rx := d.rx ++ bs }

/-- Every byte now in `D.rx` becomes deliverable (R139). -/
def Device.flush (d : Device) : Device := { d with flushed := d.rx.length }

/-- The first `n` bytes of `D.rx` are removed, with their marks (20_memory.md R52). -/
def Device.dropRx (d : Device) (n : Nat) : Device := { d with rx := d.rx.drop n, flushed := d.flushed - n }

/-- `D.sync <- false`, for the rest of the session (R35, R164). -/
def Device.desync (d : Device) : Device := { d with sync := false }

/-- An unspecified device state, number `k`: every field is a free value (R163, R291), and `D.sync` is false. The marks
of `D.rx` are cut to its length: a mark is on a byte of the queue. The divisor is some number: "no value" is only the
state before the first bus request (R32), so a bus handle never works without one (70_reset_and_hazards.md R292). -/
def Device.unspecified (k : Nat) : Device where
  latch := ⟨Config.anyLatch k .low, Config.anyLatch k .high⟩
  dir := ⟨Config.anyDir k .low, Config.anyDir k .high⟩
  loopback := Config.anyLoopback k
  divisor := some (Config.anyDivisor k)
  div5 := Config.anyDiv5 k
  threePhase := Config.anyThreePhase k
  adaptive := Config.anyAdaptive k
  rx := Config.anyRx k
  flushed := min (Config.anyFlushed k) (Config.anyRx k).length
  sync := false

/-! ### Free values (log 3 to 10, 33) -/

/-- The next free value of a source: the next given answer, else the next opaque one. -/
def Feed.next {α : Type} (opaqueAnswer : Nat → α) : Feed α → α × Feed α
  | ⟨a :: as, k⟩ => (a, ⟨as, k⟩)
  | ⟨[], k⟩ => (opaqueAnswer k, ⟨[], k + 1⟩)

/-- The next `n` free values of a source. -/
def Feed.nexts {α : Type} (opaqueAnswer : Nat → α) : Nat → Feed α → List α × Feed α
  | 0, f => ([], f)
  | n + 1, f =>
    let r := f.next opaqueAnswer
    let rs := Feed.nexts opaqueAnswer n r.2
    (r.1 :: rs.1, rs.2)

/-! ### The state's parts -/

/-- The state with another device state. -/
def State.withDevice (s : State) (d : Device) : State := { s with device := d }

/-- The state with a further record of the data lines (log 13). -/
def State.pushSerial (s : State) (e : Serial) : State := { s with serial := s.serial ++ [e] }

/-- The state with a further event of the history (00_scope.md R6). -/
def State.pushEvent (s : State) (e : Event) : State := { s with history := s.history ++ [e] }

/-- The state with other free-value sources. -/
def State.withOracle (s : State) (o : Oracle) : State := { s with oracle := o }

/-- `[draw u8] * n` (41_command_encoder.md R160): `n` response bytes of the chip oracle. -/
def State.drawBytes (s : State) (n : Nat) : List Byte × State :=
  let r := s.oracle.response.nexts Config.responseByte n
  (r.1, s.withOracle { s.oracle with response := r.2 })

/-- The outcome of the next transport call (00_scope.md R4). -/
def State.drawOutcome (s : State) : Option TransportError × State :=
  let r := s.oracle.outcome.next Config.transportOutcome
  (r.1, s.withOracle { s.oracle with outcome := r.2 })

/-- Whether a `Receive` that may hang completes (R161, R164). -/
def State.drawCompletes (s : State) : Bool × State :=
  let r := s.oracle.completes.next Config.receiveCompletes
  (r.1, s.withOracle { s.oracle with completes := r.2 })

/-- How many of `n` bytes a failed `Receive` removed: 0 to `n` (R164). -/
def State.drawLost (s : State) (n : Nat) : Nat × State :=
  let r := s.oracle.lost.next Config.bytesLost
  (min r.1 n, s.withOracle { s.oracle with lost := r.2 })

/-- Which of several clients moves (20_memory.md R56). -/
def State.drawPick (s : State) : Nat × State :=
  let r := s.oracle.pick.next Config.clientPicked
  (r.1, s.withOracle { s.oracle with pick := r.2 })

/-- Whether the device can be opened (40_session.md R101). -/
def State.drawOpens (s : State) : Bool × State :=
  let r := s.oracle.opens.next Config.deviceOpens
  (r.1, s.withOracle { s.oracle with opens := r.2 })

/-- A fresh unspecified device state (R163, R291). -/
def State.drawDevice (s : State) : Device × State :=
  (Device.unspecified s.oracle.unspecified,
    s.withOracle { s.oracle with unspecified := s.oracle.unspecified + 1 })

/-! ### The session (10_state.md section 2) -/

/-- The state with its session, if there is one, changed by `f`. -/
def State.onSession (s : State) (f : Session → Session) : State := { s with session := s.session.map f }

/-- `S.lock <- l`. -/
def Session.setLock (S : Session) (l : Lock) : Session := { S with lock := l }

/-- `S.loopback <- v`. -/
def Session.setLoopback (S : Session) (v : Bool) : Session := { S with loopback := v }

/-- `S.busMode <- b`. -/
def Session.setBusMode (S : Session) (b : BusMode) : Session := { S with busMode := b }

/-- `S.pinAvailable[i]`; an index without a flag is never available. -/
def Session.available (S : Session) (i : Nat) : Bool := S.pinAvailable[i]?.getD false

/-- `S.pinAvailable[i] <- v`. -/
def Session.setAvailable (S : Session) (i : Nat) (v : Bool) : Session :=
  { S with pinAvailable := S.pinAvailable.setIfInBounds i v }

/-- `S.lock = Free`. Without a session there is no lock to take (R37). -/
def State.lockFree (s : State) : Bool :=
  match s.session with
  | some S => S.lock == .free
  | none => false

/-- The lock is released if client `c` holds it (60_exceptions.md R261). -/
def Session.release (c : Nat) (S : Session) : Session := if S.lock = .held c then S.setLock .free else S

/-! ### Clients -/

/-- The state with client `c` replaced. -/
def State.setClient (s : State) (c : Nat) (cl : Client) : State := { s with clients := s.clients.set c cl }

/-- The state with client `c` changed by `f`. -/
def State.onClient (s : State) (c : Nat) (f : Client → Client) : State :=
  { s with clients := s.clients.modify c f }

/-- The client with its operation in progress changed by `f`. -/
def Client.onRunning (f : Running → Running) (cl : Client) : Client := { cl with running := cl.running.map f }

/-- Client `c` goes on with the actions `todo`. -/
def State.goOn (s : State) (c : Nat) (todo : List Act) : State :=
  s.onClient c (Client.onRunning fun r => { r with todo := todo })

/-- The client's operation has returned `res`. -/
def Client.return (res : Result) (cl : Client) : Client :=
  { cl with running := none, results := cl.results ++ [res] }

/-- The end of client `c`'s operation: the lock is released if `c` holds it, and `res` is returned (20_memory.md R55,
60_exceptions.md R261). -/
def State.finish (s : State) (c : Nat) (res : Result) : State :=
  (s.onSession (Session.release c)).onClient c (Client.return res)

/-- `return v`. -/
def State.returnOk (s : State) (c : Nat) (v : Value) : State := s.finish c (.ok v)

/-- `raise e`: the operation ends at once and no state is rolled back (60_exceptions.md R261, R274). -/
def State.raise (s : State) (c : Nat) (e : Error) : State := s.finish c (.err e)

end Sys2Proof.Machine
end

