-- ==== Sys2Proof/Machine/Operands.lean ====
section
/-! DEFINITION. The operand forms of the commands: bits of a byte in wire order (20_memory.md R54, 30_encoding.md R73),
and the shared operations of the command formats (clock out, clock in, full duplex, bank set, bank get). -/

namespace Sys2Proof.Machine

/-- The bits of a byte in wire order: bit 7 first, bit 0 last (20_memory.md R54). -/
def bitsMsb (b : Byte) : List Bool :=
  [b.getLsbD 7, b.getLsbD 6, b.getLsbD 5, b.getLsbD 4, b.getLsbD 3, b.getLsbD 2, b.getLsbD 1, b.getLsbD 0]

/-- The bits of a payload in wire order, `payload[0]` first (20_memory.md R54). -/
def payloadBits (p : List Byte) : List Bool := p.flatMap bitsMsb

/-- `data[7], ..., data[8-k]`: the bits a `k`-bit output sends (30_encoding.md R73). -/
def outBits (k : Nat) (data : Byte) : List Bool := (bitsMsb data).take k

/-- `r[k-1], ..., r[0]`: the bits a `k`-bit input sampled, the last one in `r[0]` (41_command_encoder.md R156). -/
def sampledBits (k : Nat) (r : Byte) : List Bool := (bitsMsb r).drop (8 - k)

/-- The edge that is not `e`. -/
def otherEdge : Edge → Edge
  | .rising => .falling
  | .falling => .rising

/-- Bits driven onto data-out, changing on `edge`: no change to `D`, no response (R147, R148, R154, R155). -/
def State.clockOut (s : State) (edge : Edge) (bits : List Bool) : State :=
  s.pushSerial { driven := some (edge, bits), sampled := none }

/-- `n` bytes sampled on `edge`: `n` free response bytes, each sampled MSB first (R149, R150, R160). -/
def State.clockBytesIn (s : State) (edge : Edge) (n : Nat) : State :=
  let r := s.drawBytes n
  (r.2.withDevice (r.2.device.respond r.1)).pushSerial
    { driven := none, sampled := some (edge, payloadBits r.1) }

/-- `k` bits sampled on `edge`: exactly one free response byte (R156, R157). -/
def State.clockBitsIn (s : State) (edge : Edge) (k : Nat) : State :=
  let r := s.drawBytes 1
  (r.2.withDevice (r.2.device.respond r.1)).pushSerial
    { driven := none, sampled := some (edge, r.1.flatMap (sampledBits k)) }

/-- The response bytes of a full-duplex command: its payload while `D.loopback` and `D.sync` hold, free bytes otherwise
(R151, R152, R159, R160). -/
def State.duplexResponse (s : State) (p : List Byte) : List Byte × State :=
  if s.device.loopback && s.device.sync then (p, s) else s.drawBytes p.length

/-- The payload driven on `writeEdge` while as many bytes are sampled on the other edge (R151, R152, 43_spi.md R230). -/
def State.clockDuplex (s : State) (writeEdge : Edge) (p : List Byte) : State :=
  let r := s.duplexResponse p
  (r.2.withDevice (r.2.device.respond r.1)).pushSerial
    { driven := some (writeEdge, payloadBits p), sampled := some (otherEdge writeEdge, payloadBits r.1) }

/-- A bank set (R131, R132). -/
def State.setBank (s : State) (b : Bank) (value dir : Byte) : State := s.withDevice (s.device.setBank b value dir)

/-- A bank get: one free response byte, the levels of the bank's pins (R134, R135, R160). The rules tie it to no field
of `D`, so both banks share the one operation. -/
def State.getBank (s : State) : State :=
  let r := s.drawBytes 1
  r.2.withDevice (r.2.device.respond r.1)

end Sys2Proof.Machine
end

