-- ==== Sys2Proof/Machine/Banks.lean ====
section
/-! DEFINITION. The GPIO bank commands (41_command_encoder.md R131 to R135). -/

namespace Sys2Proof.Machine

/-- SET_BITS_LOW (R131). -/
def execSetBitsLow (value dir : Byte) (s : State) : Host.Outcome State Fault Refusal :=
  .next (s.setBank .low value dir)

/-- SET_BITS_HIGH (R132). -/
def execSetBitsHigh (value dir : Byte) (s : State) : Host.Outcome State Fault Refusal :=
  .next (s.setBank .high value dir)

/-- GET_BITS_LOW (R134). -/
def execGetBitsLow (s : State) : Host.Outcome State Fault Refusal := .next s.getBank

/-- GET_BITS_HIGH (R135). -/
def execGetBitsHigh (s : State) : Host.Outcome State Fault Refusal := .next s.getBank

end Sys2Proof.Machine
end

