-- ==== Sys2Proof/Machine/ClockBits.lean ====
section
/-! DEFINITION. The clock-bits commands (41_command_encoder.md R154 to R157). The meanings are total: a bit count
outside 1..8 is refused by the decoder (30_encoding.md R76), so no step runs one (log 21). -/

namespace Sys2Proof.Machine

/-- MSB_BITS_OUT_RISING (R154). -/
def execMsbBitsOutRising (k : Nat) (data : Byte) (s : State) : Host.Outcome State Fault Refusal :=
  .next (s.clockOut .rising (outBits k data))

/-- MSB_BITS_OUT_FALLING (R155). -/
def execMsbBitsOutFalling (k : Nat) (data : Byte) (s : State) : Host.Outcome State Fault Refusal :=
  .next (s.clockOut .falling (outBits k data))

/-- MSB_BITS_IN_RISING (R156). -/
def execMsbBitsInRising (k : Nat) (s : State) : Host.Outcome State Fault Refusal :=
  .next (s.clockBitsIn .rising k)

/-- MSB_BITS_IN_FALLING (R157). -/
def execMsbBitsInFalling (k : Nat) (s : State) : Host.Outcome State Fault Refusal :=
  .next (s.clockBitsIn .falling k)

end Sys2Proof.Machine
end

