-- ==== Sys2Proof/Machine/ClockBytes.lean ====
section
/-! DEFINITION. The clock-bytes commands (41_command_encoder.md R147 to R152). The meanings are total: a payload or a
count outside 1..65 536 has no encoding (30_encoding.md R72), so no step runs one (log 21). -/

namespace Sys2Proof.Machine

/-- MSB_BYTES_OUT_RISING (R147). -/
def execMsbBytesOutRising (p : List Byte) (s : State) : Host.Outcome State Fault Refusal :=
  .next (s.clockOut .rising (payloadBits p))

/-- MSB_BYTES_OUT_FALLING (R148). -/
def execMsbBytesOutFalling (p : List Byte) (s : State) : Host.Outcome State Fault Refusal :=
  .next (s.clockOut .falling (payloadBits p))

/-- MSB_BYTES_IN_RISING (R149). -/
def execMsbBytesInRising (n : Nat) (s : State) : Host.Outcome State Fault Refusal :=
  .next (s.clockBytesIn .rising n)

/-- MSB_BYTES_IN_FALLING (R150). -/
def execMsbBytesInFalling (n : Nat) (s : State) : Host.Outcome State Fault Refusal :=
  .next (s.clockBytesIn .falling n)

/-- MSB_BYTES_INOUT_WF_RR (R151): write falling, read rising. -/
def execMsbBytesInoutWfRr (p : List Byte) (s : State) : Host.Outcome State Fault Refusal :=
  .next (s.clockDuplex .falling p)

/-- MSB_BYTES_INOUT_WR_RF (R152): write rising, read falling. -/
def execMsbBytesInoutWrRf (p : List Byte) (s : State) : Host.Outcome State Fault Refusal :=
  .next (s.clockDuplex .rising p)

end Sys2Proof.Machine
end

