-- ==== Sys2Proof/Machine/Control.lean ====
section
/-! DEFINITION. Loopback, the clock divisor, the flush and the clock configuration (41_command_encoder.md R136 to
R145). -/

namespace Sys2Proof.Machine

/-- LOOPBACK_ENABLE (R136). -/
def execLoopbackEnable (s : State) : Host.Outcome State Fault Refusal :=
  .next (s.withDevice (s.device.setLoopback true))

/-- LOOPBACK_DISABLE (R137). -/
def execLoopbackDisable (s : State) : Host.Outcome State Fault Refusal :=
  .next (s.withDevice (s.device.setLoopback false))

/-- SET_CLOCK_DIVISOR (R138). -/
def execSetClockDivisor (d : Half) (s : State) : Host.Outcome State Fault Refusal :=
  .next (s.withDevice (s.device.setDivisor d))

/-- SEND_IMMEDIATE (R139). -/
def execSendImmediate (s : State) : Host.Outcome State Fault Refusal :=
  .next (s.withDevice s.device.flush)

/-- DISABLE_DIV5 (R140). -/
def execDisableDiv5 (s : State) : Host.Outcome State Fault Refusal :=
  .next (s.withDevice (s.device.setDiv5 false))

/-- ENABLE_DIV5 (R141). -/
def execEnableDiv5 (s : State) : Host.Outcome State Fault Refusal :=
  .next (s.withDevice (s.device.setDiv5 true))

/-- ENABLE_3PHASE (R142). -/
def execEnable3Phase (s : State) : Host.Outcome State Fault Refusal :=
  .next (s.withDevice (s.device.setThreePhase true))

/-- DISABLE_3PHASE (R143). -/
def execDisable3Phase (s : State) : Host.Outcome State Fault Refusal :=
  .next (s.withDevice (s.device.setThreePhase false))

/-- ENABLE_ADAPTIVE (R144). -/
def execEnableAdaptive (s : State) : Host.Outcome State Fault Refusal :=
  .next (s.withDevice (s.device.setAdaptive true))

/-- DISABLE_ADAPTIVE (R145). -/
def execDisableAdaptive (s : State) : Host.Outcome State Fault Refusal :=
  .next (s.withDevice (s.device.setAdaptive false))

end Sys2Proof.Machine
end

