-- ==== Sys2Proof/Machine/Dispatch.lean ====
section
/-! DEFINITION. The meaning of each command: one arm per row of spec/opcode_table.json. -/

namespace Sys2Proof.Machine

def exec (i : Instr) (s : State) : Host.Outcome State Fault Refusal :=
  match i with
  | .msbBytesOutRising p => Sys2Proof.Machine.execMsbBytesOutRising p s
  | .msbBytesOutFalling p => Sys2Proof.Machine.execMsbBytesOutFalling p s
  | .msbBitsOutRising k data => Sys2Proof.Machine.execMsbBitsOutRising k data s
  | .msbBitsOutFalling k data => Sys2Proof.Machine.execMsbBitsOutFalling k data s
  | .msbBytesInRising n => Sys2Proof.Machine.execMsbBytesInRising n s
  | .msbBitsInRising k => Sys2Proof.Machine.execMsbBitsInRising k s
  | .msbBytesInFalling n => Sys2Proof.Machine.execMsbBytesInFalling n s
  | .msbBitsInFalling k => Sys2Proof.Machine.execMsbBitsInFalling k s
  | .msbBytesInoutWfRr p => Sys2Proof.Machine.execMsbBytesInoutWfRr p s
  | .msbBytesInoutWrRf p => Sys2Proof.Machine.execMsbBytesInoutWrRf p s
  | .setBitsLow value dir => Sys2Proof.Machine.execSetBitsLow value dir s
  | .getBitsLow => Sys2Proof.Machine.execGetBitsLow s
  | .setBitsHigh value dir => Sys2Proof.Machine.execSetBitsHigh value dir s
  | .getBitsHigh => Sys2Proof.Machine.execGetBitsHigh s
  | .loopbackEnable => Sys2Proof.Machine.execLoopbackEnable s
  | .loopbackDisable => Sys2Proof.Machine.execLoopbackDisable s
  | .setClockDivisor d => Sys2Proof.Machine.execSetClockDivisor d s
  | .sendImmediate => Sys2Proof.Machine.execSendImmediate s
  | .disableDiv5 => Sys2Proof.Machine.execDisableDiv5 s
  | .enableDiv5 => Sys2Proof.Machine.execEnableDiv5 s
  | .enable3Phase => Sys2Proof.Machine.execEnable3Phase s
  | .disable3Phase => Sys2Proof.Machine.execDisable3Phase s
  | .enableAdaptive => Sys2Proof.Machine.execEnableAdaptive s
  | .disableAdaptive => Sys2Proof.Machine.execDisableAdaptive s

end Sys2Proof.Machine
end

