-- ==== Sys2Proof/Machine/Fetch.lean ====
section
/-! DEFINITION. What the chip finds at the head of the command stream (20_memory.md R51, 41_command_encoder.md R162). -/

namespace Sys2Proof.Machine

/-- What stands at the head of the command stream. -/
inductive Fetched where
  /-- A whole command, and the bytes after it. -/
  | command (i : Instr) (rest : List Byte)
  /-- No whole command yet: the chip has no step (log 18). -/
  | nothing
  /-- Bytes the model gives no meaning (30_encoding.md R76). -/
  | refused (r : Refusal)
  deriving DecidableEq, Repr

/-- The head of the command stream, decoded. -/
def State.fetch (s : State) : Fetched :=
  match decode s.stream with
  | .command i rest => .command i rest
  | .truncated => .nothing
  | .unknownOpcode op => .refused (.unknownOpcode op)
  | .reservedBitLength l => .refused (.reservedBitLength l)

/-- The state with its command stream replaced. -/
def State.withStream (s : State) (bs : List Byte) : State := { s with stream := bs }

/-- The state with a command of the opcode table at the head of the command stream, as a successful `Send` of it to a
chip that has executed all earlier commands puts it there (log 2, 25). -/
def State.placeCommand (s : State) (nbits w : Nat) : State := s.withStream (tableBytes nbits w ++ s.stream)

end Sys2Proof.Machine
end

