-- ==== Sys2Proof/Machine/Flags.lean ====
section
/-! DEFINITION. The block has no flags register and no condition codes (10_state.md R36). Its one transient condition
is the I2C acknowledge bit, read here. -/

namespace Sys2Proof.Machine

/-- The I2C acknowledge (00_scope.md section 7). -/
inductive Ack where
  | ack
  | nack
  deriving DecidableEq, Repr

/-- `ackOf(r)`: bit 0 of the response byte, low for ACK; the other bits are ignored (42_i2c.md R186). -/
def ackOf (r : Byte) : Ack := if r.getLsbD 0 then .nack else .ack

end Sys2Proof.Machine
end

