-- ==== Sys2Proof/Machine/Parameters.lean ====
section
/-! DEFINITION. The one-valued parameters of 00_scope.md R7 and the direction bytes of 42_i2c.md R181. (The two
full-duplex opcodes are in Decode.lean, the parameters with two values in Config.lean.) -/

namespace Sys2Proof

/-- `F0`, the base clock in Hz. -/
def Config.f0 : Nat := 60000000

/-- `MAX_XFER`, the longest clock-bytes transfer. -/
def Config.maxXfer : Nat := 65536

/-- `I2C_REPEAT`, the repetitions of each START and STOP state. -/
def Config.i2cRepeat : Nat := 4

/-- `LOW_DIR`, the low bank's direction byte (D4). It is also `DIR_DRIVE` of 42_i2c.md R181. -/
def Config.lowDir : Byte := 0xFB

/-- `HIGH_DIR`, the high bank's direction byte. -/
def Config.highDir : Byte := 0xFF

/-- `OPEN_DIR`, the direction byte `open` writes to each bank. -/
def Config.openDir : Byte := 0xFF

/-- `DIR_SDA_IN` of 42_i2c.md R181: SDA released to input. -/
def Config.dirSdaIn : Byte := 0xF9

/-- `DIR_RELEASE` of 42_i2c.md R181: SCL and SDA released. -/
def Config.dirRelease : Byte := 0xF8

end Sys2Proof
end

