-- ==== Sys2Proof/Machine/Clock.lean ====
section
/-! DEFINITION. Speed classes, the divisor formula and table, and the bus clock (40_session.md R103 to R107,
70_reset_and_hazards.md R302). -/

namespace Sys2Proof.Machine

/-- `div(f) = round(F0 / (2 * f)) - 1`, halves rounded away from zero (R103, D12): the nearest integer to `F0 / 2f` is
`(F0 + f) / 2f` rounded down. -/
def divisorOf (f : Nat) : Nat := (Config.f0 + f) / (2 * f) - 1

/-- `SPI_DEFAULT` (00_scope.md R7). -/
def Config.spiDefault : SpiSpeed := .m1

/-- `I2C_DEFAULT` (00_scope.md R7). -/
def Config.i2cDefault : I2cSpeed := .k100

/-- `resolve` for SPI (R106). -/
def SpiSpeed.resolve : SpiSpeed → SpiSpeed
  | .auto => Config.spiDefault
  | s => s

/-- `resolve` for I2C (R106). -/
def I2cSpeed.resolve : I2cSpeed → I2cSpeed
  | .auto => Config.i2cDefault
  | s => s

/-- The frequency an SPI speed class requests, in Hz (R104). -/
def SpiSpeed.hz : SpiSpeed → Nat
  | .auto => 1000000
  | .k500 => 500000
  | .m1 => 1000000
  | .m2 => 2000000
  | .m2_5 => 2500000
  | .m3 => 3000000
  | .m5 => 5000000
  | .m10 => 10000000
  | .m20 => 20000000

/-- The frequency an I2C speed class requests, in Hz (R104). -/
def I2cSpeed.hz : I2cSpeed → Nat
  | .auto => 100000
  | .k100 => 100000
  | .k400 => 400000

/-- `DIV_TABLE` for SPI (R104). -/
def SpiSpeed.divisor : SpiSpeed → Half
  | .auto => 0x001D
  | .k500 => 0x003B
  | .m1 => 0x001D
  | .m2 => 0x000E
  | .m2_5 => 0x000B
  | .m3 => 0x0009
  | .m5 => 0x0005
  | .m10 => 0x0002
  | .m20 => 0x0001

/-- `DIV_TABLE` for I2C (R104). -/
def I2cSpeed.divisor : I2cSpeed → Half
  | .auto => 0x012B
  | .k100 => 0x012B
  | .k400 => 0x004A

/-- `compatible(c, r)` for SPI: `r` is Auto or resolves to the committed speed (R107). -/
def SpiSpeed.compatible (committed requested : SpiSpeed) : Bool :=
  requested == .auto || requested.resolve == committed

/-- `compatible(c, r)` for I2C (R107). -/
def I2cSpeed.compatible (committed requested : I2cSpeed) : Bool :=
  requested == .auto || requested.resolve == committed

/-- The bus clock in Hz: `F0 / (2 * (D.divisor + 1))` with the three clock modes off (10_state.md R32, R103); a free
value with one of them on (R141, R142, R144; U15); no value while the divisor has none. -/
def Device.busClock (d : Device) : Option Rat :=
  d.divisor.map fun v =>
    if d.div5 || d.threePhase || d.adaptive then
      Config.busClockUnstated v d.div5 d.threePhase d.adaptive
    else (Config.f0 : Rat) / (2 * ((v.toNat : Rat) + 1))

end Sys2Proof.Machine
end

