-- ==== Sys2Proof/Machine/Encoder.lean ====
section
/-! DEFINITION. The block's command encoder (41_command_encoder.md R130, R133, R136 to R146, R153): pure functions from
arguments to bytes (00_scope.md R2), each written over `encode`. -/

namespace Sys2Proof.Machine

/-- `setBank(bank, value, dir)` (R130). -/
def setBank : Bank → Byte → Byte → List Byte
  | .low, value, dir => encode (.setBitsLow value dir)
  | .high, value, dir => encode (.setBitsHigh value dir)

/-- `getBank(bank)` (R133). -/
def getBank : Bank → List Byte
  | .low => encode .getBitsLow
  | .high => encode .getBitsHigh

/-- `loopback(e)` (R136, R137). -/
def loopback (e : Bool) : List Byte := if e then encode .loopbackEnable else encode .loopbackDisable

/-- `setDivisor(d)` (R138). -/
def setDivisor (d : Half) : List Byte := encode (.setClockDivisor d)

/-- `flushNow()` (R139). -/
def flushNow : List Byte := encode .sendImmediate

/-- `div5(e)` (41_command_encoder.md section 5). -/
def div5 (e : Bool) : List Byte := if e then encode .enableDiv5 else encode .disableDiv5

/-- `threePhase(e)` (41_command_encoder.md section 5). -/
def threePhase (e : Bool) : List Byte := if e then encode .enable3Phase else encode .disable3Phase

/-- `adaptive(e)` (41_command_encoder.md section 5). -/
def adaptive (e : Bool) : List Byte := if e then encode .enableAdaptive else encode .disableAdaptive

/-- The direction and the argument of `clockBytes`: a payload for out and inout, a count for in (R146). -/
inductive Transfer where
  | out (p : List Byte)
  | into (n : Nat)
  | inout (p : List Byte)
  deriving DecidableEq, Repr

/-- The command `clockBytes` selects. For `inout` the edge names the write edge (R146). -/
def clockBytesCommand : Transfer → Edge → Instr
  | .out p, .rising => .msbBytesOutRising p
  | .out p, .falling => .msbBytesOutFalling p
  | .into n, .rising => .msbBytesInRising n
  | .into n, .falling => .msbBytesInFalling n
  | .inout p, .falling => .msbBytesInoutWfRr p
  | .inout p, .rising => .msbBytesInoutWrRf p

/-- `clockBytes(direction, edge, arg)`: no bytes where the count has no encoding (R146, 30_encoding.md R72). -/
def clockBytes (t : Transfer) (e : Edge) : Option (List Byte) :=
  let i := clockBytesCommand t e
  if i.wellFormed then some (encode i) else none

/-- `clockBit(out, edge, data)`: one bit, `data[7]` (R153). -/
def clockBitOut : Edge → Byte → List Byte
  | .rising, data => encode (.msbBitsOutRising 1 data)
  | .falling, data => encode (.msbBitsOutFalling 1 data)

/-- `clockBit(in, edge)`: one bit in, one response byte (R153). -/
def clockBitIn : Edge → List Byte
  | .rising => encode (.msbBitsInRising 1)
  | .falling => encode (.msbBitsInFalling 1)

end Sys2Proof.Machine
end

