-- ==== Sys2Proof/Machine/Pins.lean ====
section
/-! DEFINITION. The bank bit map and the arbitrated pins (10_state.md R29, R39; 40_session.md R110; 44_gpio.md R241). -/

namespace Sys2Proof.Machine

/-- The clock line, low-bank bit 0: SPI clock, I2C SCL (R39). -/
def clockLine : Nat := 0

/-- The data-out line, low-bank bit 1: SPI data out, I2C SDA driven (R39). -/
def dataOutLine : Nat := 1

/-- The data-in line, low-bank bit 2: SPI data in, I2C SDA read back (R39). -/
def dataInLine : Nat := 2

/-- The chip-select line, low-bank bit 3, which no operation drives (R39, 43_spi.md R229). -/
def chipSelectLine : Nat := 3

/-- The twelve named pins (R29). -/
inductive PinName where
  | pl0 | pl1 | pl2 | pl3
  | ph0 | ph1 | ph2 | ph3 | ph4 | ph5 | ph6 | ph7
  deriving DecidableEq, Repr

/-- The descriptor `(bit, bank)` of a named pin (R29). -/
def PinName.descriptor : PinName → Nat × Bank
  | .pl0 => (4, .low)
  | .pl1 => (5, .low)
  | .pl2 => (6, .low)
  | .pl3 => (7, .low)
  | .ph0 => (0, .high)
  | .ph1 => (1, .high)
  | .ph2 => (2, .high)
  | .ph3 => (3, .high)
  | .ph4 => (4, .high)
  | .ph5 => (5, .high)
  | .ph6 => (6, .high)
  | .ph7 => (7, .high)

/-- A descriptor is valid: bits 4..7 of the low bank, bits 0..7 of the high bank (R110). -/
def pinValid : Nat → Bank → Bool
  | bit, .low => decide (4 ≤ bit) && decide (bit ≤ 7)
  | bit, .high => decide (bit ≤ 7)

/-- `idx(bit, bank)`: the place of a valid descriptor in `S.pinAvailable` (R110, D23). -/
def pinIndex : Nat → Bank → Nat
  | bit, .low => bit - 4
  | bit, .high => 4 + bit

/-- `DIR(bank)`: the direction byte of every GPIO bank write (44_gpio.md R241). -/
def dirOf : Bank → Byte
  | .low => Config.lowDir
  | .high => Config.highDir

/-- The byte with bit `bit` at `level`: `v | (1 << bit)` or `v & (0xFF xor (1 << bit))` (44_gpio.md R243, R244). -/
def withPin (v : Byte) (bit : Nat) (level : Bool) : Byte :=
  if level then v ||| (1 <<< bit) else v &&& (0xFF ^^^ (1 <<< bit))

end Sys2Proof.Machine
end

