-- ==== Sys2Proof/Machine/Sequences.lean ====
section
/-! DEFINITION. The fixed command sequences the block sends: the pseudo-instructions of 30_encoding.md R79. -/

namespace Sys2Proof.Machine

/-- `rep(k, xs)` (00_scope.md section 6). -/
def rep (k : Nat) (xs : List Byte) : List Byte := (List.replicate k xs).flatten

/-- `OPEN_SEQ` (40_session.md R100). -/
def openSeq : List Byte :=
  div5 false ++ adaptive false ++ threePhase false ++ loopback false
    ++ setBank .low 0x00 Config.openDir ++ setBank .high 0x00 Config.openDir

/-- `SPI_SETUP(s)` for a resolved speed (40_session.md R108). -/
def spiSetup (s : SpiSpeed) : List Byte := setBank .low 0x00 Config.lowDir ++ setDivisor s.divisor

/-- `I2C_SETUP(s)` for a resolved speed (40_session.md R109). -/
def i2cSetup (s : I2cSpeed) : List Byte := setBank .low 0x03 Config.lowDir ++ setDivisor s.divisor

/-- `line(sda, scl)` (42_i2c.md R182). -/
def i2cLine (sda scl : Bool) : List Byte :=
  setBank .low (BitVec.ofNat 8 (2 * sda.toNat + scl.toNat)) Config.lowDir

/-- `I2C_START` (42_i2c.md R183). -/
def i2cStart : List Byte :=
  rep Config.i2cRepeat (i2cLine true true) ++ rep Config.i2cRepeat (i2cLine false true)
    ++ rep Config.i2cRepeat (i2cLine false false)

/-- `I2C_STOP` (42_i2c.md R184). -/
def i2cStop : List Byte :=
  rep Config.i2cRepeat (i2cLine false true) ++ rep Config.i2cRepeat (i2cLine true true)
    ++ rep Config.i2cRepeat (setBank .low 0x03 Config.dirRelease)

/-- `I2C_WRITE_BYTE(b)` (42_i2c.md R185). -/
def i2cWriteByte (b : Byte) : List Byte :=
  setBank .low 0x00 Config.lowDir ++ encode (.msbBytesOutFalling [b]) ++ setBank .low 0x00 Config.dirSdaIn
    ++ clockBitIn .rising ++ flushNow

/-- `I2C_READ_BYTE(last)` (42_i2c.md R187). -/
def i2cReadByte (last : Bool) : List Byte :=
  setBank .low 0x00 Config.dirSdaIn ++ encode (.msbBytesInRising 1) ++ setBank .low 0x00 Config.lowDir
    ++ clockBitOut .falling (if last then 0xFF else 0x00) ++ flushNow

/-- `INOUT(mode)` with its payload (43_spi.md R221). -/
def spiInout : SpiMode → List Byte → Instr
  | .mode0, p => clockBytesCommand (.inout p) .falling
  | .mode2, p => clockBytesCommand (.inout p) .rising

/-- `OUT(mode)` with its payload (43_spi.md R221). -/
def spiOut : SpiMode → List Byte → Instr
  | .mode0, p => clockBytesCommand (.out p) .falling
  | .mode2, p => clockBytesCommand (.out p) .rising

/-- `SPI_XFER(m, p)` (43_spi.md R224). -/
def spiXfer (m : SpiMode) (p : List Byte) : List Byte := encode (spiInout m p) ++ flushNow

/-- `SPI_WRITE(m, p)` (43_spi.md R225). -/
def spiWriteOnly (m : SpiMode) (p : List Byte) : List Byte := encode (spiOut m p)

/-- `GPIO_READ(b)` (44_gpio.md R242). -/
def gpioRead (b : Bank) : List Byte := getBank b ++ flushNow

/-- `GPIO_WRITE(b, v)` (44_gpio.md R242). -/
def gpioWrite (b : Bank) (v : Byte) : List Byte := setBank b v (dirOf b)

end Sys2Proof.Machine
end

