-- ==== Sys2Proof/Machine/Gpio.lean ====
section
/-! DEFINITION. The GPIO pin operations of 44_gpio.md as lists of actions. -/

namespace Sys2Proof.Machine

/-- The first part of the read-modify-write: the bank is read (R242). -/
def gpioPlan (pin : PinHandle) (level : Bool) : List Act :=
  [.takeLock, .send .idle (gpioRead pin.bank), .readBank pin.bank pin.bit level]

/-- The second part, once the byte `v` has been read: the bank is written with the pin's bit at `level`, in the same
lock region if `GPIO_RMW_ATOMIC`, in a region of its own otherwise (R242, R245). -/
def gpioWriteBack (atomic : Bool) (bank : Bank) (bit : Nat) (level : Bool) (v : Byte) : List Act :=
  (if atomic then [] else [.releaseLock, .takeLock])
    ++ [.send .idle (gpioWrite bank (withPin v bit level)), .done .unit]

end Sys2Proof.Machine
end

