-- ==== Sys2Proof/Machine/I2c.lean ====
section
/-! DEFINITION. The I2C transactions of 42_i2c.md as lists of actions. Each phase is one `Send`, and one `Receive(1)`
for the byte phases (R190). -/

namespace Sys2Proof.Machine

/-- `addrW(a)` (R191), computed in 8 bits. -/
def addrW (a : Byte) : Byte := a <<< 1

/-- `addrR(a)` (R191), computed in 8 bits. -/
def addrR (a : Byte) : Byte := (a <<< 1) ||| 1

/-- An address above 0x7F, where `I2C_ADDR_POLICY` refuses it (R192). -/
def addrRefused (policy : AddrPolicy) (a : Byte) : Bool :=
  match policy with
  | .reject => decide (0x7F < a.toNat)
  | .truncate => false

/-- The address phase: a byte-write phase with its acknowledge check (R185, R195). -/
def addressPhase (b : Byte) : List Act := [.send .address (i2cWriteByte b), .ack]

/-- A write phase (R185). -/
def writePhase (b : Byte) : List Act := [.send .write (i2cWriteByte b), .ack]

/-- A read phase; the last byte is answered with NACK (R187). -/
def readPhase (last : Bool) : List Act := [.send .read (i2cReadByte last), .read 1]

/-- `n` read phases, NACK only on the last (R188). -/
def readPhases (n : Nat) : List Act := (List.range n).flatMap fun i => readPhase (decide (i + 1 = n))

/-- `i2c.write(addr, bytes)` (R195, R198, R272). -/
def i2cWritePlan (policy : AddrPolicy) (addr : Byte) (bytes : List Byte) : List Act :=
  if bytes.isEmpty then [.done .unit]
  else if addrRefused policy addr then [.raise .invalidParams]
  else [.takeLock, .send .start i2cStart] ++ addressPhase (addrW addr) ++ bytes.flatMap writePhase
    ++ [.send .stop i2cStop, .done .unit]

/-- `i2c.read(addr, n)` (R196, R198, R272). -/
def i2cReadPlan (policy : AddrPolicy) (addr : Byte) (n : Nat) : List Act :=
  if n = 0 then [.doneRead]
  else if addrRefused policy addr then [.raise .invalidParams]
  else [.takeLock, .send .start i2cStart] ++ addressPhase (addrR addr) ++ readPhases n
    ++ [.send .stop i2cStop, .doneRead]

/-- `i2c.writeThenRead(addr, bytes, n)` (R197, R272). The repeated START is the same 36 bytes as START (D32). -/
def i2cWriteThenReadPlan (policy : AddrPolicy) (addr : Byte) (bytes : List Byte) (n : Nat) : List Act :=
  if bytes.isEmpty || n = 0 then [.raise .invalidParams]
  else if addrRefused policy addr then [.raise .invalidParams]
  else [.takeLock, .send .start i2cStart] ++ addressPhase (addrW addr) ++ bytes.flatMap writePhase
    ++ [.send .repeatedStart i2cStart] ++ addressPhase (addrR addr) ++ readPhases n
    ++ [.send .stop i2cStop, .doneRead]

/-- `abortNack` (R193): the STOP is attempted, and `I2cNoAck` is returned whether it fails or not. -/
def abortNack : List Act := [.stopAfterNack, .raise .i2cNoAck]

end Sys2Proof.Machine
end

