-- ==== Sys2Proof/Machine/Session.lean ====
section
/-! DEFINITION. The session operations of 40_session.md: what each does first, as a list of actions. What an action does
is in Operations.lean. -/

namespace Sys2Proof.Machine

/-- `open` (R100, R101). The session comes to be with the return of `Ok` and not before it, so that no other operation
can be called until then (70_reset_and_hazards.md R293). -/
def openPlan : List Act := [.openDevice, .sendOpen, .makeSession]

/-- `setLoopback(enabled)` (R102). -/
def setLoopbackPlan (enabled : Bool) : List Act := [.takeLock, .writeLoopback enabled]

/-- `requestSpi(speed)` (R108). -/
def requestSpiPlan (speed : SpiSpeed) : List Act := [.takeLock, .matchSpi speed]

/-- `requestI2c(speed)` (R109). -/
def requestI2cPlan (speed : I2cSpeed) : List Act := [.takeLock, .matchI2c speed]

/-- `acquirePin(d)` (R111). -/
def acquirePinPlan (bit : Nat) (bank : Bank) : List Act := [.takeLock, .claimPin bit bank]

/-- What `requestSpi` does once it has matched on `S.busMode` (R108): a committed I2C bus is busy; a committed SPI bus
gives a handle if the speeds are compatible; an uncommitted bus is set up first, and committed after its `Send`. -/
def requestSpiBody (mode : BusMode) (speed : SpiSpeed) : List Act :=
  match mode with
  | .i2c _ => [.raise .busBusy]
  | .spi c => if c.compatible speed then [.giveSpi speed] else [.raise .invalidClock]
  | .uncommitted =>
    [.send .idle (spiSetup speed.resolve), .commit (.spi speed.resolve), .giveSpi speed]

/-- What `requestI2c` does once it has matched on `S.busMode` (R109). -/
def requestI2cBody (mode : BusMode) (speed : I2cSpeed) : List Act :=
  match mode with
  | .spi _ => [.raise .busBusy]
  | .i2c c => if c.compatible speed then [.giveI2c speed] else [.raise .invalidClock]
  | .uncommitted =>
    [.send .idle (i2cSetup speed.resolve), .commit (.i2c speed.resolve), .giveI2c speed]

/-- The end of a pin handle's lifetime (R112): with `PIN_RELEASE` the flag is set again under the lock; without it
nothing happens. -/
def dropPinPlan (pinRelease : Bool) (pin : PinHandle) : List Act :=
  if pinRelease then [.takeLock, .freePin (pinIndex pin.bit pin.bank), .done .unit] else [.done .unit]

/-- The device as it is at launch, before `open`'s `Send` (70_reset_and_hazards.md R291): every field unspecified, the
divisor without a value, and the queue empty and in step exactly if `OPEN_CLEAN`. -/
def Device.atLaunch (openClean : Bool) (d : Device) : Device :=
  if openClean then { d with divisor := none, rx := [], flushed := 0, sync := true }
  else { d with divisor := none, sync := false }

end Sys2Proof.Machine
end

