-- ==== Sys2Proof/Machine/Spi.lean ====
section
/-! DEFINITION. The SPI operations of 43_spi.md as lists of actions. -/

namespace Sys2Proof.Machine

/-- The mode number `2*cpol + cpha` (R220). -/
def spiModeNumber (cpol cpha : Bool) : Nat := 2 * cpol.toNat + cpha.toNat

/-- The mode a pair stands for: 0 and 2 are accepted, 1 and 3 are not (R220). -/
def spiModeOf (cpol cpha : Bool) : Option SpiMode :=
  if spiModeNumber cpol cpha = 0 then some .mode0
  else if spiModeNumber cpol cpha = 2 then some .mode2
  else none

/-- `spi.setMode(h, (cpol, cpha))` (R222): no transport call and no lock. -/
def spiSetModePlan (h : Nat) (cpol cpha : Bool) : List Act := [.setMode h cpol cpha]

/-- `spi.transfer(h, p)` on a handle in mode `m` (R223, R224, R272). -/
def spiTransferPlan (m : SpiMode) (p : List Byte) : List Act :=
  if p.isEmpty then [.doneRead]
  else if Config.maxXfer < p.length then [.raise .invalidParams]
  else [.takeLock, .send .idle (spiXfer m p), .read p.length, .doneRead]

/-- `spi.write(h, p)` on a handle in mode `m` (R223, R225, R272). -/
def spiWritePlan (m : SpiMode) (p : List Byte) : List Act :=
  if p.isEmpty then [.done .unit]
  else if Config.maxXfer < p.length then [.raise .invalidParams]
  else [.takeLock, .send .idle (spiWriteOnly m p), .done .unit]

end Sys2Proof.Machine
end

