-- ==== Sys2Proof/Machine/Transport.lean ====
section
/-! DEFINITION. The transport's two calls, `Send` and `Receive` (00_scope.md R4), as client `c` makes them. -/

namespace Sys2Proof.Machine

/-- `D` is havocked: every field a free value, `D.sync` false (41_command_encoder.md R163). -/
def State.havoc (s : State) : State :=
  let r := s.drawDevice
  r.2.withDevice r.1

/-- `Send(bs)`. On success the bytes join the command stream (20_memory.md R51). On failure `D` is havocked, since the
chip may have received any part of them from the front (R163). The record of the data lines then gains nothing, whatever
clock commands of that part ran (20_memory.md R58): the model's choice (log 5, 13). -/
def State.send (s : State) (c : Nat) (bs : List Byte) : Option TransportError × State :=
  let r := s.drawOutcome
  match r.1 with
  | none => (none, { r.2 with stream := r.2.stream ++ bs }.pushEvent (.send c bs none))
  | some e => (some e, r.2.havoc.pushEvent (.send c bs (some e)))

/-- What becomes of a `Receive`. -/
inductive Reception where
  | bytes (bs : List Byte)
  | failed (e : TransportError)
  | hangs
  deriving DecidableEq, Repr

/-- A completed `Receive(n)` returns `bs` and removes `n` bytes of `D.rx` (20_memory.md R52). -/
def State.deliver (s : State) (c n : Nat) (bs : List Byte) : Reception × State :=
  (.bytes bs, (s.withDevice (s.device.dropRx n)).pushEvent (.receive c n (.ok bs)))

/-- A failed `Receive(n)` removes 0 to `n` bytes of `D.rx`, and ends the step (R164). -/
def State.loseBytes (s : State) (c n : Nat) (e : TransportError) : Reception × State :=
  let r := s.drawLost n
  (.failed e, (r.2.withDevice (r.2.device.dropRx r.1).desync).pushEvent (.receive c n (.err e)))

/-- `Receive(n)` where the transport does not fail.

In step (`D.sync`), it returns the first `n` bytes of `D.rx`: at once if they are deliverable, by a free choice if some
of them only exist, never if they do not exist (R52, R161). Out of step no rule constrains the bytes and the call may
hang (10_state.md R35, R164): by a free choice it returns `n` free bytes or hangs (log 7, 8). -/
def State.receiveOk (s : State) (c n : Nat) : Reception × State :=
  if s.device.sync then
    if n ≤ s.device.flushed ∧ n ≤ s.device.rx.length then s.deliver c n (s.device.rx.take n)
    else if n ≤ s.device.rx.length then
      let r := s.drawCompletes
      if r.1 then r.2.deliver c n (r.2.device.rx.take n) else (.hangs, r.2)
    else (.hangs, s)
  else
    let r := s.drawCompletes
    if r.1 then
      let b := r.2.drawBytes n
      b.2.deliver c n b.1
    else (.hangs, r.2)

/-- `Receive(n)` (00_scope.md R4). -/
def State.receive (s : State) (c n : Nat) : Reception × State :=
  let r := s.drawOutcome
  match r.1 with
  | some e => r.2.loseBytes c n e
  | none => r.2.receiveOk c n

end Sys2Proof.Machine
end

