-- ==== Sys2Proof/Machine/Operations.lean ====
section
/-! DEFINITION. What each action of an operation does, as one step of client `c` (70_reset_and_hazards.md R307; log 17).
`rest` is what the operation has left after the action. -/

namespace Sys2Proof.Machine

/-- `phase <- ph` (42_i2c.md R180). -/
def State.setPhase (s : State) (c : Nat) (ph : Phase) : State :=
  s.onClient c (Client.onRunning fun r => { r with phase := ph })

/-- The operation of client `c` hangs in its `Receive`: it has no step any more (41_command_encoder.md R161). -/
def State.hang (s : State) (c : Nat) : State :=
  s.onClient c (Client.onRunning fun r => { r with hung := true })

/-- `buf <- buf ++ bs` (42_i2c.md R196). -/
def State.appendBuf (s : State) (c : Nat) (bs : List Byte) : State :=
  s.onClient c (Client.onRunning fun r => { r with buf := r.buf ++ bs })

/-- The bytes client `c`'s operation has read. -/
def State.bufOf (s : State) (c : Nat) : List Byte :=
  match s.clients[c]?.bind Client.running with
  | some r => r.buf
  | none => []

/-- `phase <- ph; Send(bs)`, then `rest`; a transport error ends the operation with `raise` (60_exceptions.md R262). -/
def State.sendThen (s : State) (c : Nat) (ph : Phase) (bs : List Byte) (onError : TransportError → Error)
    (rest : List Act) : State :=
  let r := (s.setPhase c ph).send c bs
  match r.1 with
  | none => r.2.goOn c rest
  | some e => r.2.raise c (onError e)

/-- `Receive(n)`, then `k` with the bytes; a transport error ends the operation (60_exceptions.md R262). -/
def State.receiveThen (s : State) (c n : Nat) (k : List Byte → State → State) : State :=
  let r := s.receive c n
  match r.1 with
  | .bytes bs => k bs r.2
  | .failed e => r.2.raise c (.transport e)
  | .hangs => r.2.hang c

/-- A new SPI handle, in Mode0 (10_state.md R28), and its return. -/
def State.giveSpi (s : State) (c : Nat) (speed : SpiSpeed) : State :=
  match s.clients[c]? with
  | some cl =>
    (s.setClient c { cl with spi := cl.spi ++ [⟨speed, .mode0⟩] }).returnOk c (.spiHandle cl.spi.length)
  | none => s

/-- A new I2C handle and its return. -/
def State.giveI2c (s : State) (c : Nat) (speed : I2cSpeed) : State :=
  match s.clients[c]? with
  | some cl => (s.setClient c { cl with i2c := cl.i2c ++ [⟨speed⟩] }).returnOk c (.i2cHandle cl.i2c.length)
  | none => s

/-- A new pin handle and its return. -/
def State.givePin (s : State) (c : Nat) (pin : PinHandle) : State :=
  match s.clients[c]? with
  | some cl => (s.setClient c { cl with pins := cl.pins ++ [some pin] }).returnOk c (.pinHandle cl.pins.length)
  | none => s

/-- The body of `acquirePin` (40_session.md R111): validity first, then availability. -/
def State.claimPin (s : State) (c : Nat) (S : Session) (bit : Nat) (bank : Bank) : State :=
  if !pinValid bit bank then s.raise c .gpioInvalidPin
  else if !S.available (pinIndex bit bank) then s.raise c .gpioPinBusy
  else (s.onSession fun S => S.setAvailable (pinIndex bit bank) false).givePin c ⟨bank, bit⟩

/-- The mode of client `c`'s SPI handle `h` becomes `m` (43_spi.md R222). -/
def State.setMode (s : State) (c h : Nat) (m : SpiMode) : State :=
  s.onClient c fun cl => { cl with spi := cl.spi.modify h fun x => { x with mode := m } }

/-- The transport collaborator opens the device, or the run halts (40_session.md R101, 60_exceptions.md R271). An opened
device is as 70_reset_and_hazards.md R291 says; its buffers have been purged of commands. That this is so at every `open`,
also at one after an `InitError` or a teardown, is the model's choice (log 37). -/
def State.openDevice (s : State) (c : Nat) (rest : List Act) : State :=
  let r := s.drawOpens
  if r.1 then
    let d := r.2.drawDevice
    ({ d.2 with stream := [] }.withDevice (d.1.atLaunch s.params.openClean)).goOn c rest
  else { r.2 with halted := true }.pushEvent .halt

/-- `Send(OPEN_SEQ)` (40_session.md R100). -/
def State.sendOpen (s : State) (c : Nat) (rest : List Act) : State :=
  let r := s.send c openSeq
  match r.1 with
  | none => r.2.goOn c rest
  | some e => r.2.raise c (.init e)

/-- `S <- { ... }; return session` of `open` (40_session.md R100): by then the chip has executed `OPEN_SEQ`, and the
session and the return come in one step (10_state.md R37, 70_reset_and_hazards.md R293). -/
def State.makeSession (s : State) (c : Nat) : State :=
  { s with session := some Session.fresh }.returnOk c .session

/-- The `Send` of `setLoopback`; on an error the flag is restored if `LOOPBACK_ROLLBACK` (40_session.md R102). -/
def State.sendLoopback (s : State) (c : Nat) (enabled old : Bool) : State :=
  let r := s.send c (loopback enabled)
  match r.1 with
  | none => r.2.returnOk c .unit
  | some e =>
    (if s.params.loopbackRollback then r.2.onSession fun S => S.setLoopback old else r.2).raise c (.transport e)

/-- `k` with the session; without one there is nothing to do (no such action has a step then, Scheduler.lean). -/
def State.inSession (s : State) (k : Session → State) : State :=
  match s.session with
  | some S => k S
  | none => s

/-- One action of client `c`'s operation. -/
def State.runAct (s : State) (c : Nat) (a : Act) (rest : List Act) : State :=
  match a with
  | .takeLock => (s.onSession fun S => S.setLock (.held c)).goOn c rest
  | .releaseLock => (s.onSession (Session.release c)).goOn c rest
  | .send ph bs => s.sendThen c ph bs .transport rest
  | .stopAfterNack => ((s.setPhase c .stop).send c i2cStop).2.goOn c rest
  | .ack =>
    s.receiveThen c 1 fun bs s' =>
      match ackOf (bs.headD 0) with
      | .ack => s'.goOn c rest
      | .nack => s'.goOn c abortNack
  | .read n => s.receiveThen c n fun bs s' => (s'.appendBuf c bs).goOn c rest
  | .readBank bank bit level =>
    s.receiveThen c 1 fun bs s' =>
      s'.goOn c (gpioWriteBack s'.params.gpioRmwAtomic bank bit level (bs.headD 0))
  | .writeLoopback enabled =>
    s.inSession fun S =>
      (s.onSession fun S => S.setLoopback enabled).goOn c (.sendLoopback enabled S.loopback :: rest)
  | .sendLoopback enabled old => s.sendLoopback c enabled old
  | .matchSpi speed => s.inSession fun S => s.goOn c (requestSpiBody S.busMode speed)
  | .matchI2c speed => s.inSession fun S => s.goOn c (requestI2cBody S.busMode speed)
  | .commit b => (s.onSession fun S => S.setBusMode b).goOn c rest
  | .giveSpi speed => s.giveSpi c speed
  | .giveI2c speed => s.giveI2c c speed
  | .claimPin bit bank => s.inSession fun S => s.claimPin c S bit bank
  | .freePin idx => (s.onSession fun S => S.setAvailable idx true).goOn c rest
  | .setMode h cpol cpha =>
    match spiModeOf cpol cpha with
    | some m => (s.setMode c h m).returnOk c .unit
    | none => s.raise c .spiModeNotSupported
  | .openDevice => s.openDevice c rest
  | .sendOpen => s.sendOpen c rest
  | .makeSession => s.makeSession c
  | .done v => s.returnOk c v
  | .doneRead => s.returnOk c (.bytes (s.bufOf c))
  | .raise e => s.raise c e

end Sys2Proof.Machine
end

