-- ==== Sys2Proof/Machine/Scheduler.lean ====
section
/-! DEFINITION. The clients as agents (00_scope.md R3, 60_exceptions.md R280): the start of a call, which clients have a
step, and which of them moves. -/

namespace Sys2Proof.Machine

/-- No operation is in progress (40_session.md R113). -/
def State.noOperation (s : State) : Bool := s.clients.all fun cl => cl.running.isNone

/-- Client `cl` holds the pin handle `h`. -/
def Client.pin (cl : Client) (h : Nat) : Option PinHandle := cl.pins[h]?.join

/-- A call that a client can make now: `open` while there is no session, teardown while no operation is in progress, any
other operation on the session, and on a handle the client holds (00_scope.md section 4; 40_session.md R113;
60_exceptions.md R277; log 16, 19). That `open` is a call of one of the clients, which are there before it, is the
model's choice (60_exceptions.md R280; log 36). So is it that `open` can be called again after an `InitError`, by any client:
60_exceptions.md R270 says only that no other operation can run then (log 37). After a teardown a new `open` is
70_reset_and_hazards.md R294's. -/
def State.callPossible (s : State) (cl : Client) : Call → Bool
  | .openSession => s.session.isNone && s.noOperation
  | .teardown => s.session.isSome && s.noOperation
  | .setLoopback _ => s.session.isSome
  | .requestSpi _ => s.session.isSome
  | .requestI2c _ => s.session.isSome
  | .acquirePin _ _ => s.session.isSome
  | .i2cWrite h _ _ => s.session.isSome && cl.i2c[h]?.isSome
  | .i2cRead h _ _ => s.session.isSome && cl.i2c[h]?.isSome
  | .i2cWriteThenRead h _ _ _ => s.session.isSome && cl.i2c[h]?.isSome
  | .spiSetMode h _ _ => s.session.isSome && cl.spi[h]?.isSome
  | .spiTransfer h _ => s.session.isSome && cl.spi[h]?.isSome
  | .spiWrite h _ => s.session.isSome && cl.spi[h]?.isSome
  | .gpioSetHigh h => s.session.isSome && (cl.pin h).isSome
  | .gpioSetLow h => s.session.isSome && (cl.pin h).isSome
  | .dropPin h => s.session.isSome && (cl.pin h).isSome

/-- The actions of a call on an SPI handle; none without the handle, and then the call has no step. -/
def onSpi (cl : Client) (h : Nat) (plan : SpiHandle → List Act) : List Act := (cl.spi[h]?.map plan).getD []

/-- The actions of a call on a pin handle; none without the handle, and then the call has no step. -/
def onPin (cl : Client) (h : Nat) (plan : PinHandle → List Act) : List Act := ((cl.pin h).map plan).getD []

/-- The actions of a call: the argument checks are made here, before any transport call (60_exceptions.md R272). -/
def planOf (params : Params) (cl : Client) : Call → List Act
  | .openSession => openPlan
  | .setLoopback enabled => setLoopbackPlan enabled
  | .requestSpi speed => requestSpiPlan speed
  | .requestI2c speed => requestI2cPlan speed
  | .acquirePin bit bank => acquirePinPlan bit bank
  | .teardown => []
  | .i2cWrite _ addr bytes => i2cWritePlan params.i2cAddrPolicy addr bytes
  | .i2cRead _ addr n => i2cReadPlan params.i2cAddrPolicy addr n
  | .i2cWriteThenRead _ addr bytes n => i2cWriteThenReadPlan params.i2cAddrPolicy addr bytes n
  | .spiSetMode h cpol cpha => spiSetModePlan h cpol cpha
  | .spiTransfer h p => onSpi cl h fun x => spiTransferPlan x.mode p
  | .spiWrite h p => onSpi cl h fun x => spiWritePlan x.mode p
  | .gpioSetHigh h => onPin cl h fun x => gpioPlan x true
  | .gpioSetLow h => onPin cl h fun x => gpioPlan x false
  | .dropPin h => onPin cl h fun x => dropPinPlan params.pinRelease x

/-- The handles of a client that a call ends the lifetime of: `dropPin` empties its slot (40_session.md R112). -/
def Client.dropped (cl : Client) : Call → Client
  | .dropPin h => { cl with pins := cl.pins.set h none }
  | _ => cl

/-- A client without its handles: no handle outlives the session (40_session.md R113, 70_reset_and_hazards.md R294). -/
def Client.withoutHandles (cl : Client) : Client := { cl with spi := [], i2c := [], pins := [] }

/-- Teardown by client `c` (40_session.md R113): the buffers are purged, the session ends, every handle with it, and
nothing is raised. It sends no command. -/
def State.teardown (s : State) (c : Nat) : State :=
  { s with
    session := none
    device := { s.device with rx := [], flushed := 0 }
    stream := []
    clients := (s.clients.map Client.withoutHandles).modify c (Client.return (.ok .unit)) }

/-- Client `c` starts the call `call`, the first of `call :: calls`. -/
def State.startCall (s : State) (c : Nat) (cl : Client) (call : Call) (calls : List Call) : State :=
  match call with
  | .teardown => (s.setClient c { cl with calls := calls }).teardown c
  | _ =>
    let op : Running := { call := call, phase := .idle, todo := planOf s.params cl call, buf := [], hung := false }
    s.setClient c { cl.dropped call with calls := calls, running := some op }

/-- The next action of an operation has a step: the lock is free for `takeLock`; `open`'s actions need no session, every
other action needs one; a hung operation has none (20_memory.md R55, 41_command_encoder.md R161). -/
def State.actPossible (s : State) (r : Running) : Bool :=
  !r.hung &&
    match r.todo with
    | .takeLock :: _ => s.lockFree
    | .openDevice :: _ => s.session.isNone
    | .sendOpen :: _ => s.session.isNone
    | .makeSession :: _ => s.session.isNone
    | _ => s.session.isSome

/-- Client `cl` has a step. -/
def State.clientHasStep (s : State) (cl : Client) : Bool :=
  match cl.running, cl.calls with
  | some r, _ => s.actPossible r
  | none, call :: _ => s.callPossible cl call
  | none, [] => false

/-- The clients that have a step, by number. -/
def State.ready (s : State) : List Nat :=
  (List.range s.clients.length).filter fun c => (s.clients[c]?.map s.clientHasStep).getD false

/-- Every client has made all its calls and none is in an operation. -/
def State.allDone (s : State) : Bool := s.clients.all fun cl => cl.running.isNone && cl.calls.isEmpty

/-- One step of client `c`. An operation with no action left returns (no plan ends so). -/
def State.clientStep (s : State) (c : Nat) : State :=
  match s.clients[c]? with
  | none => s
  | some cl =>
    match cl.running, cl.calls with
    | some r, _ =>
      match r.todo with
      | a :: rest => s.runAct c a rest
      | [] => s.returnOk c .unit
    | none, call :: calls => s.startCall c cl call calls
    | none, [] => s

/-- One step of the clients: of those that have a step, a free choice moves, with no fairness (20_memory.md R56, log 9; for
what finite lists of calls leave of starvation, 70_reset_and_hazards.md R305, log 38). When all have done their work the
block is passive and nothing changes (00_scope.md R3, log 2). When some have work and none has a step, the machine is
stuck. -/
def State.agentStep (s : State) : Host.Outcome State Fault Refusal :=
  if s.halted then .fault .halted
  else
    match s.ready with
    | [] => if s.allDone then .next s else .fault .stuck
    | [c] => .next (s.clientStep c)
    | c :: d :: cs =>
      let r := s.drawPick
      let cands := c :: d :: cs
      .next (r.2.clientStep (cands.getD (r.1 % cands.length) c))

end Sys2Proof.Machine
end

