-- ==== Sys2Proof/Machine/Step.lean ====
section
/-! DEFINITION. One step of the machine. The chip executes the command at the head of the command stream; while no whole
command waits there, a client moves (log 1). -/

namespace Sys2Proof.Machine

/-- One step. -/
def step (s : State) : Host.Outcome State Fault Refusal :=
  match s.fetch with
  | .command i rest => exec i (s.withStream rest)
  | .refused r => .refused r
  | .nothing => s.agentStep

/-- The state whose very next step runs the opcode table's word `w` of `nbits` bits (log 25). -/
def State.withFetchWord (s : State) (nbits w : Nat) : State := s.placeCommand nbits w

end Sys2Proof.Machine
end

