-- ==== Sys2Proof/Machine/Assembly.lean ====
section
/-! DEFINITION. How a command is written down (30_encoding.md R78): its mnemonic, then its operands. The rule shows one
example for each operand form but that of the bit outputs, which is the model's choice (log 34). -/

namespace Sys2Proof

/-- The mnemonic of a command (30_encoding.md R75). -/
def Instr.mnemonic : Instr → String
  | .msbBytesOutRising _ => "MSB_BYTES_OUT_RISING"
  | .msbBytesOutFalling _ => "MSB_BYTES_OUT_FALLING"
  | .msbBitsOutRising _ _ => "MSB_BITS_OUT_RISING"
  | .msbBitsOutFalling _ _ => "MSB_BITS_OUT_FALLING"
  | .msbBytesInRising _ => "MSB_BYTES_IN_RISING"
  | .msbBitsInRising _ => "MSB_BITS_IN_RISING"
  | .msbBytesInFalling _ => "MSB_BYTES_IN_FALLING"
  | .msbBitsInFalling _ => "MSB_BITS_IN_FALLING"
  | .msbBytesInoutWfRr _ => "MSB_BYTES_INOUT_WF_RR"
  | .msbBytesInoutWrRf _ => "MSB_BYTES_INOUT_WR_RF"
  | .setBitsLow _ _ => "SET_BITS_LOW"
  | .getBitsLow => "GET_BITS_LOW"
  | .setBitsHigh _ _ => "SET_BITS_HIGH"
  | .getBitsHigh => "GET_BITS_HIGH"
  | .loopbackEnable => "LOOPBACK_ENABLE"
  | .loopbackDisable => "LOOPBACK_DISABLE"
  | .setClockDivisor _ => "SET_CLOCK_DIVISOR"
  | .sendImmediate => "SEND_IMMEDIATE"
  | .disableDiv5 => "DISABLE_DIV5"
  | .enableDiv5 => "ENABLE_DIV5"
  | .enable3Phase => "ENABLE_3PHASE"
  | .disable3Phase => "DISABLE_3PHASE"
  | .enableAdaptive => "ENABLE_ADAPTIVE"
  | .disableAdaptive => "DISABLE_ADAPTIVE"

/-- One hexadecimal digit, the low four bits of `n`. -/
def hexDigit (n : Nat) : Char :=
  ['0', '1', '2', '3', '4', '5', '6', '7', '8', '9', 'A', 'B', 'C', 'D', 'E', 'F'].getD (n % 16) '0'

/-- A byte as two hexadecimal digits. -/
def hexByte (b : Byte) : String := String.ofList ['0', 'x', hexDigit (b.toNat / 16), hexDigit b.toNat]

/-- A u16 as four hexadecimal digits. -/
def hexHalf (h : Half) : String :=
  String.ofList ['0', 'x', hexDigit (h.toNat / 4096), hexDigit (h.toNat / 256), hexDigit (h.toNat / 16), hexDigit h.toNat]

/-- A payload as a byte list, with its length before it. -/
def payloadText (p : List Byte) : String :=
  "n=" ++ toString p.length ++ ", [" ++ String.intercalate ", " (p.map hexByte) ++ "]"

/-- The operands of a command as they are written, with the space before them (R78). -/
def Instr.operandText : Instr → String
  | .msbBytesOutRising p => " " ++ payloadText p
  | .msbBytesOutFalling p => " " ++ payloadText p
  | .msbBitsOutRising k data => " k=" ++ toString k ++ ", " ++ hexByte data
  | .msbBitsOutFalling k data => " k=" ++ toString k ++ ", " ++ hexByte data
  | .msbBytesInRising n => " n=" ++ toString n
  | .msbBitsInRising k => " k=" ++ toString k
  | .msbBytesInFalling n => " n=" ++ toString n
  | .msbBitsInFalling k => " k=" ++ toString k
  | .msbBytesInoutWfRr p => " " ++ payloadText p
  | .msbBytesInoutWrRf p => " " ++ payloadText p
  | .setBitsLow value dir => " " ++ hexByte value ++ ", " ++ hexByte dir
  | .getBitsLow => ""
  | .setBitsHigh value dir => " " ++ hexByte value ++ ", " ++ hexByte dir
  | .getBitsHigh => ""
  | .loopbackEnable => ""
  | .loopbackDisable => ""
  | .setClockDivisor d => " " ++ hexHalf d
  | .sendImmediate => ""
  | .disableDiv5 => ""
  | .enableDiv5 => ""
  | .enable3Phase => ""
  | .disable3Phase => ""
  | .enableAdaptive => ""
  | .disableAdaptive => ""

/-- A command as it is written (R78). -/
def Instr.written (i : Instr) : String := i.mnemonic ++ i.operandText

end Sys2Proof
end

