-- ==== Sys2Proof/Machine/Errors.lean ====
section
/-! DEFINITION. The numeric codes of the error values (60_exceptions.md R260, D36). -/

namespace Sys2Proof.Machine

/-- The code of an error (R260). -/
def Error.code : Error → Nat
  | .transport _ => 1
  | .invalidParams => 2
  | .invalidClock => 3
  | .busBusy => 4
  | .i2cNoAck => 5
  | .gpioPinBusy => 6
  | .gpioInvalidPin => 7
  | .spiModeNotSupported => 8
  | .init _ => 9

end Sys2Proof.Machine
end

