-- ==== Sys2Proof/Safety.lean ====
section
/-! DEFINITION. What a good state is, and the terms in which statements speak of runs: the invariants of the queue, the
lock, the bus and the pins, the runs of the machine, and the state in which one client is about to make a call. -/

namespace Sys2Proof.Machine

/-! ### The response queue -/

/-- The deliverable marks are on bytes of `D.rx` (10_state.md R34, R38). -/
def Device.queueOk (d : Device) : Prop := d.flushed ≤ d.rx.length

/-! ### The lock (20_memory.md R55, R57) -/

/-- Client `c` holds the session lock. -/
def State.holds (s : State) (c : Nat) : Bool :=
  match s.session with
  | some S => S.lock == .held c
  | none => false

/-- The actions that the pseudocode places inside `with lock`: every transport call but `open`'s, and every read or
write of `S` but its making. -/
def Act.needsLock : Act → Bool
  | .takeLock => false
  | .releaseLock => true
  | .send _ _ => true
  | .stopAfterNack => true
  | .ack => true
  | .read _ => true
  | .readBank _ _ _ => true
  | .writeLoopback _ => true
  | .sendLoopback _ _ => true
  | .matchSpi _ => true
  | .matchI2c _ => true
  | .commit _ => true
  | .giveSpi _ => false
  | .giveI2c _ => false
  | .claimPin _ _ => true
  | .freePin _ => true
  | .setMode _ _ _ => false
  | .openDevice => false
  | .sendOpen => false
  | .makeSession => false
  | .done _ => false
  | .doneRead => false
  | .raise _ => false

/-- From an action list on, the lock is taken only while it is not held, and every action that needs it comes while it
is held; `held` says whether it is held at the front. -/
def guarded : Bool → List Act → Bool
  | _, [] => true
  | held, .takeLock :: rest => !held && guarded true rest
  | held, .releaseLock :: rest => held && guarded false rest
  | held, a :: rest => (held || !a.needsLock) && guarded held rest

/-- The lock discipline: each operation's remaining actions are guarded, given whether its client holds the lock now;
and the lock is held only by a client that is in an operation. -/
def LockInv (s : State) : Prop :=
  (∀ c cl r, s.clients[c]? = some cl → cl.running = some r → guarded (s.holds c) r.todo = true) ∧
  (∀ c, s.holds c = true → ∃ cl r, s.clients[c]? = some cl ∧ cl.running = some r)

/-! ### The bus (10_state.md R24) -/

/-- A bus mode whose speed is not `Auto` (R24). -/
def BusMode.resolved : BusMode → Bool
  | .uncommitted => true
  | .spi s => s != .auto
  | .i2c s => s != .auto

/-- The bus modes an action list is still to commit. -/
def commits (todo : List Act) : List BusMode :=
  todo.filterMap fun a =>
    match a with
    | .commit b => some b
    | _ => none

/-- An operation about to commit a bus is alone in that: it holds the lock of a session whose bus is uncommitted, and
releases it only by its end. -/
def CommitInv (s : State) : Prop :=
  ∀ c cl r, s.clients[c]? = some cl → cl.running = some r → commits r.todo ≠ [] →
    s.holds c = true ∧ .releaseLock ∉ r.todo ∧ (∃ b, commits r.todo = [b] ∧ b.resolved = true) ∧
      ∃ S, s.session = some S ∧ S.busMode = .uncommitted

/-- The bus invariant: the stored speed is never `Auto`, and whoever is to commit a bus finds it uncommitted. -/
def BusInv (s : State) : Prop :=
  LockInv s ∧ CommitInv s ∧ ∀ S, s.session = some S → S.busMode.resolved = true

/-! ### The pins (10_state.md R25, R27) -/

/-- The flags that a client's pin handles stand for. -/
def Client.pinsHeld (cl : Client) : List Nat := (cl.pins.filterMap id).map fun p => pinIndex p.bit p.bank

/-- The flags that an action list is still to set again (40_session.md R112). -/
def pinsFreed (todo : List Act) : List Nat :=
  todo.filterMap fun a =>
    match a with
    | .freePin i => some i
    | _ => none

/-- The flags that a client's operation in progress is still to set again. -/
def Client.pinsReturning (cl : Client) : List Nat :=
  match cl.running with
  | some r => pinsFreed r.todo
  | none => []

/-- The flags a client accounts for. -/
def Client.pinClaims (cl : Client) : List Nat := cl.pinsHeld ++ cl.pinsReturning

/-- All flags accounted for. -/
def State.pinClaims (s : State) : List Nat := s.clients.flatMap Client.pinClaims

/-- The pin invariant: no flag is accounted for twice, so at most one live handle stands for it (R27); every flag
accounted for is false; and without a session nothing is. -/
def PinInv (s : State) : Prop :=
  s.pinClaims.Nodup ∧
  (∀ i ∈ s.pinClaims, ∃ S, s.session = some S ∧ S.available i = false)

/-! ### All together -/

/-- A good state. -/
def Inv (s : State) : Prop := s.device.queueOk ∧ BusInv s ∧ PinInv s

/-! ### Runs -/

/-- `t` is reached from `s` in some number of steps. -/
def Reaches (s t : State) : Prop := ∃ k, Sys2Proof.core.run k s = .next t

/-- The commands of a list, executed one after the other (41_command_encoder.md R162). -/
def execAll : List Instr → State → Host.Outcome State Fault Refusal
  | [], s => .next s
  | i :: is, s =>
    match exec i s with
    | .next t => execAll is t
    | .fault r => .fault r
    | .refused r => .refused r

/-- Client `c`, in no operation, is about to make `call` on the session `S` with its lock free; no other client has a
step, and the chip has nothing left to execute. -/
structure Calling (s : State) (S : Session) (c : Nat) (cl : Client) (call : Call) (calls : List Call) : Prop where
  session : s.session = some S
  lock : S.lock = .free
  client : s.clients[c]? = some cl
  calls : cl.calls = call :: calls
  running : cl.running = none
  alone : s.ready = [c]
  stream : s.stream = []
  halted : s.halted = false

/-- The device is in step with nothing in its queue. -/
structure Device.Quiet (d : Device) : Prop where
  sync : d.sync = true
  rx : d.rx = []
  flushed : d.flushed = 0

/-- The client after its call has returned `res`. -/
def Client.after (cl : Client) (calls : List Call) (res : Result) : Client :=
  { cl with calls := calls, results := cl.results ++ [res] }

end Sys2Proof.Machine
end

