-- ==== Sys2Proof/Certificates/Slice0/Obligations.lean ====
section
/-! DEFINITION. The statements for the provers. Each docstring cites the rule of spec/ it formalises; a statement that
rests on a choice of the model names its log entry. -/

open Sys2Proof Sys2Proof.Machine

/-! ### Encoding (30_encoding.md) -/

/-- R70 to R73, R80: the decoder reads a well-formed command's bytes back, whatever follows them. -/
def Obligations.DecodeOfEncodeIsTheCommand : Prop :=
  ∀ (i : Instr) (rest : List Byte), i.wellFormed = true → decode (encode i ++ rest) = .command i rest

/-- R70 to R73, R77: what the decoder accepts is a well-formed command and exactly its bytes, and `cmdLen` finds its length
at the head of the stream. -/
def Obligations.EncodeOfDecodeIsTheBytes : Prop :=
  ∀ (bs rest : List Byte) (i : Instr), decode bs = .command i rest →
    i.wellFormed = true ∧ encode i ++ rest = bs ∧ cmdLen bs = some (encode i).length

/-- R76, R73: a byte that is no opcode of R75 is invalid and the machine refuses it by name; so is a reserved bit-length
byte. -/
def Obligations.InvalidBytesAreRefused : Prop :=
  (∀ (op : Byte) (tl : List Byte) (s : State),
    op ∉ ([0x10, 0x11, 0x12, 0x13, 0x20, 0x22, 0x24, 0x26, 0x31, 0x34, 0x80, 0x81, 0x82, 0x83, 0x84, 0x85, 0x86, 0x87,
      0x8A, 0x8B, 0x8C, 0x8D, 0x96, 0x97] : List Byte) →
    s.stream = op :: tl → step s = .refused (.unknownOpcode op)) ∧
  (∀ (op l data : Byte) (tl : List Byte) (s : State), 8 ≤ l.toNat →
    ((op = 0x12 ∨ op = 0x13) ∧ s.stream = op :: l :: data :: tl ∨
      (op = 0x22 ∨ op = 0x26) ∧ s.stream = op :: l :: tl) →
    step s = .refused (.reservedBitLength l))

/-- A few words written out from the spec's encodings (95_test_vectors.md L2.2, R78): sanity. -/
def Obligations.SpecWordsDecode : Prop :=
  decode [0x80, 0x03, 0xFB] = .command (.setBitsLow 0x03 0xFB) [] ∧
  decode [0x86, 0x1D, 0x00] = .command (.setClockDivisor 0x001D) [] ∧
  decode [0x31, 0x01, 0x00, 0xA5, 0x5A] = .command (.msbBytesInoutWfRr [0xA5, 0x5A]) [] ∧
  decode [0x22, 0x00] = .command (.msbBitsInRising 1) [] ∧
  decode [0x12, 0x07, 0xC3] = .command (.msbBitsOutRising 8 0xC3) [] ∧
  decode [0x24, 0xFF, 0x00] = .command (.msbBytesInFalling 256) [] ∧
  decode [0x10, 0x00, 0x00, 0xA5] = .command (.msbBytesOutRising [0xA5]) [] ∧
  decode [0x81, 0x87] = .command .getBitsLow [0x87]

/-- R74: bit by bit, what the opcode of a command says of what the command does on the data lines: bit 0 the write edge,
bit 1 the bit mode, bit 2 the read edge, bits 3 and 6 zero, bit 4 write, bit 5 read, bit 7 clear for the clock commands
and set for the others, which do nothing there. The record of the data lines is the model's (log 13). -/
def Obligations.OpcodeBitsSayWhatTheLinesDo : Prop :=
  ∀ (i : Instr) (s : State), ∃ t, exec i s = .next t ∧
    (i.opcode.getLsbD 7 = true → t.serial = s.serial) ∧
    (i.opcode.getLsbD 7 = false → ∃ e, t.serial = s.serial ++ [e] ∧
      i.opcode.getLsbD 3 = false ∧ i.opcode.getLsbD 6 = false ∧
      i.opcode.getLsbD 1 = decide (i.format = .fbo ∨ i.format = .fbi) ∧
      e.driven.map Prod.fst =
        (if i.opcode.getLsbD 4 then some (if i.opcode.getLsbD 0 then Edge.falling else Edge.rising) else none) ∧
      e.sampled.map Prod.fst =
        (if i.opcode.getLsbD 5 then some (if i.opcode.getLsbD 2 then Edge.falling else Edge.rising) else none))

/-! ### The commands (41_command_encoder.md): encoding, effect and frame -/

/-- R131, R132: a bank set writes the output byte and the direction byte of its bank and nothing else; done twice it leaves
the state as after once; each pin of the bank then drives its value bit if its direction bit is 1 and nothing if it is 0. -/
def Obligations.BankSetWritesItsWholeBank : Prop :=
  ∀ (value dir : Byte) (s : State),
    encode (.setBitsLow value dir) = [0x80, value, dir] ∧
    encode (.setBitsHigh value dir) = [0x82, value, dir] ∧
    exec (.setBitsLow value dir) s = .next { s with
      device := { s.device with latch := ⟨value, s.device.latch.high⟩, dir := ⟨dir, s.device.dir.high⟩ } } ∧
    exec (.setBitsHigh value dir) s = .next { s with
      device := { s.device with latch := ⟨s.device.latch.low, value⟩, dir := ⟨s.device.dir.low, dir⟩ } } ∧
    execAll [.setBitsLow value dir, .setBitsLow value dir] s = exec (.setBitsLow value dir) s ∧
    execAll [.setBitsHigh value dir, .setBitsHigh value dir] s = exec (.setBitsHigh value dir) s ∧
    ∀ (b b' : Bank) (i : Nat),
      ((s.device.setBank b value dir).drives b i = if dir.getLsbD i then some (value.getLsbD i) else none) ∧
      (b' ≠ b → (s.device.setBank b value dir).drives b' i = s.device.drives b' i)

/-- R134, R135, R160: a bank get appends one byte, the next free value, to `D.rx`, and changes nothing else. That it is
the source's next value is the model's form of a draw (log 3). -/
def Obligations.GetBitsAppendsOneFreeByte : Prop :=
  ∀ (i : Instr) (s : State), i = .getBitsLow ∨ i = .getBitsHigh →
    exec i s = .next { s with
      device := { s.device with rx := s.device.rx ++ [(s.oracle.response.next Config.responseByte).1] }
      oracle := { s.oracle with response := (s.oracle.response.next Config.responseByte).2 } }

/-- R136, R137: the loopback commands set and clear `D.loopback`, and change nothing else. -/
def Obligations.LoopbackCommandsSwitchLoopback : Prop :=
  ∀ s : State,
    encode .loopbackEnable = [0x84] ∧ encode .loopbackDisable = [0x85] ∧
    exec .loopbackEnable s = .next { s with device := { s.device with loopback := true } } ∧
    exec .loopbackDisable s = .next { s with device := { s.device with loopback := false } }

/-- R138: SET_CLOCK_DIVISOR carries the divisor low byte first and stores it, and changes nothing else; the bus clock is
then `F0 / (2 * (d + 1))` while the clock modes are off. -/
def Obligations.SetClockDivisorStoresDivisor : Prop :=
  ∀ (lo hi : Byte) (rest : List Byte) (s : State),
    decode (0x86 :: lo :: hi :: rest) = .command (.setClockDivisor (get16 lo hi)) rest ∧
    (get16 lo hi).toNat = lo.toNat + 256 * hi.toNat ∧
    ∃ t, exec (.setClockDivisor (get16 lo hi)) s = .next t ∧
      t = { s with device := { s.device with divisor := some (get16 lo hi) } } ∧
      (s.device.div5 = false → s.device.threePhase = false → s.device.adaptive = false →
        t.device.busClock = some (60000000 / (2 * (((lo.toNat + 256 * hi.toNat : Nat) : Rat) + 1))))

/-- R139: SEND_IMMEDIATE makes every byte now in `D.rx` deliverable, produces no byte and changes nothing else. -/
def Obligations.SendImmediateMarksAllDeliverable : Prop :=
  ∀ s : State,
    encode .sendImmediate = [0x87] ∧
    exec .sendImmediate s = .next { s with device := { s.device with flushed := s.device.rx.length } }

/-- R140 to R145: each clock configuration command sets or clears its mode and changes nothing else. -/
def Obligations.ClockModeCommandsSwitchTheirMode : Prop :=
  ∀ s : State,
    (encode .disableDiv5 = [0x8A] ∧ encode .enableDiv5 = [0x8B] ∧ encode .enable3Phase = [0x8C] ∧
      encode .disable3Phase = [0x8D] ∧ encode .enableAdaptive = [0x96] ∧ encode .disableAdaptive = [0x97]) ∧
    exec .disableDiv5 s = .next { s with device := { s.device with div5 := false } } ∧
    exec .enableDiv5 s = .next { s with device := { s.device with div5 := true } } ∧
    exec .enable3Phase s = .next { s with device := { s.device with threePhase := true } } ∧
    exec .disable3Phase s = .next { s with device := { s.device with threePhase := false } } ∧
    exec .enableAdaptive s = .next { s with device := { s.device with adaptive := true } } ∧
    exec .disableAdaptive s = .next { s with device := { s.device with adaptive := false } }

/-- R147, R148, R54: the byte outputs drive the payload MSB first, `p[0]` first, on their edge, and change neither `D` nor
anything else. The record of the data lines is the model's (log 13). -/
def Obligations.BytesOutDriveThePayload : Prop :=
  ∀ (p : List Byte) (s : State),
    exec (.msbBytesOutRising p) s =
      .next { s with serial := s.serial ++ [⟨some (.rising, p.flatMap bitsMsb), none⟩] } ∧
    exec (.msbBytesOutFalling p) s =
      .next { s with serial := s.serial ++ [⟨some (.falling, p.flatMap bitsMsb), none⟩] }

/-- R154, R155, R73: the bit outputs drive `data[7], ..., data[8-k]` on their edge, and change neither `D` nor anything
else. The record of the data lines is the model's (log 13). -/
def Obligations.BitsOutDriveTheTopBits : Prop :=
  ∀ (k : Nat) (data : Byte) (s : State), 1 ≤ k → k ≤ 8 →
    exec (.msbBitsOutRising k data) s =
      .next { s with serial := s.serial ++ [⟨some (.rising, (List.range k).map fun j => data.getLsbD (7 - j)), none⟩] } ∧
    exec (.msbBitsOutFalling k data) s =
      .next { s with serial := s.serial ++ [⟨some (.falling, (List.range k).map fun j => data.getLsbD (7 - j)), none⟩] }

/-- R149, R150, R160: the byte inputs append exactly `n` free bytes to `D.rx`, sampled MSB first on their edge, and change
nothing else. The sources of free values and the record of the data lines are the model's (log 3, 13). -/
def Obligations.BytesInAppendCountFreeBytes : Prop :=
  ∀ (n : Nat) (s : State), ∃ bs o,
    Feed.nexts Config.responseByte n s.oracle.response = (bs, o) ∧ bs.length = n ∧
    exec (.msbBytesInRising n) s = .next { s with
      device := { s.device with rx := s.device.rx ++ bs }
      oracle := { s.oracle with response := o }
      serial := s.serial ++ [⟨none, some (.rising, bs.flatMap bitsMsb)⟩] } ∧
    exec (.msbBytesInFalling n) s = .next { s with
      device := { s.device with rx := s.device.rx ++ bs }
      oracle := { s.oracle with response := o }
      serial := s.serial ++ [⟨none, some (.falling, bs.flatMap bitsMsb)⟩] }

/-- R156, R157, R160: the bit inputs append exactly one free byte `r`, whose bits `r[k-1:0]` are the sampled bits with the
last in `r[0]`, and change nothing else. The sources of free values and the record of the data lines are the model's
(log 3, 13). -/
def Obligations.BitsInAppendOneFreeByte : Prop :=
  ∀ (k : Nat) (s : State), 1 ≤ k → k ≤ 8 → ∃ r o,
    Feed.next Config.responseByte s.oracle.response = (r, o) ∧
    exec (.msbBitsInRising k) s = .next { s with
      device := { s.device with rx := s.device.rx ++ [r] }
      oracle := { s.oracle with response := o }
      serial := s.serial ++ [⟨none, some (.rising, (List.range k).map fun j => r.getLsbD (k - 1 - j))⟩] } ∧
    exec (.msbBitsInFalling k) s = .next { s with
      device := { s.device with rx := s.device.rx ++ [r] }
      oracle := { s.oracle with response := o }
      serial := s.serial ++ [⟨none, some (.falling, (List.range k).map fun j => r.getLsbD (k - 1 - j))⟩] }

/-- R159, R151, R152: while `D.loopback` and `D.sync` hold, the response bytes of a full-duplex command are exactly its
payload, in order, and the payload is what it drives, MSB first, on its edge. Beside `D.rx` nothing changes but the record
of the data lines (the model's, log 13). -/
def Obligations.FullDuplexUnderLoopbackEchoes : Prop :=
  ∀ (p : List Byte) (s : State), s.device.loopback = true → s.device.sync = true →
    exec (.msbBytesInoutWfRr p) s = .next { s with
      device := { s.device with rx := s.device.rx ++ p }
      serial := s.serial ++ [⟨some (.falling, p.flatMap bitsMsb), some (.rising, p.flatMap bitsMsb)⟩] } ∧
    exec (.msbBytesInoutWrRf p) s = .next { s with
      device := { s.device with rx := s.device.rx ++ p }
      serial := s.serial ++ [⟨some (.rising, p.flatMap bitsMsb), some (.falling, p.flatMap bitsMsb)⟩] }

/-- R151, R152, R160: otherwise a full-duplex command appends as many free bytes as its payload has. Beside `D.rx`, the
sources of free values and the record of the data lines (log 3, 13) nothing changes. -/
def Obligations.FullDuplexOtherwiseAppendsFreeBytes : Prop :=
  ∀ (p : List Byte) (s : State), ¬(s.device.loopback = true ∧ s.device.sync = true) → ∃ bs o,
    Feed.nexts Config.responseByte p.length s.oracle.response = (bs, o) ∧ bs.length = p.length ∧
    exec (.msbBytesInoutWfRr p) s = .next { s with
      device := { s.device with rx := s.device.rx ++ bs }
      oracle := { s.oracle with response := o }
      serial := s.serial ++ [⟨some (.falling, p.flatMap bitsMsb), some (.rising, bs.flatMap bitsMsb)⟩] } ∧
    exec (.msbBytesInoutWrRf p) s = .next { s with
      device := { s.device with rx := s.device.rx ++ bs }
      oracle := { s.oracle with response := o }
      serial := s.serial ++ [⟨some (.rising, p.flatMap bitsMsb), some (.falling, bs.flatMap bitsMsb)⟩] }

/-- R160: a response byte that R159 does not fix can be any byte. For every byte list of the right length there is a
source of free values under which the command appends that list. -/
def Obligations.ResponseBytesCanBeAnything : Prop :=
  ∀ (i : Instr) (s : State) (bs : List Byte), bs.length = i.responses →
    (i.format = .fxio → (s.device.loopback && s.device.sync) = false) →
    ∃ o t, exec i { s with oracle := { s.oracle with response := o } } = .next t ∧ t.device.rx = s.device.rx ++ bs

/-- R158, R139, R35: every command appends exactly its count of response bytes, keeps what was queued in front of them,
keeps `D.sync`, and moves the deliverable mark only if it is SEND_IMMEDIATE. -/
def Obligations.CommandsAppendTheirResponseCount : Prop :=
  ∀ (i : Instr) (s t : State), exec i s = .next t →
    (∃ bs, bs.length = i.responses ∧ t.device.rx = s.device.rx ++ bs) ∧
    t.device.sync = s.device.sync ∧
    (i ≠ .sendImmediate → t.device.flushed = s.device.flushed)

/-- R1, R5, R22: a command acts on the chip alone. The session, the clients, the history, the parameters, the rest of the
command stream and the halt are as before. -/
def Obligations.CommandsTouchOnlyTheChip : Prop :=
  ∀ (i : Instr) (s : State), ∃ t, exec i s = .next t ∧
    t.session = s.session ∧ t.clients = s.clients ∧ t.history = s.history ∧ t.params = s.params ∧
    t.stream = s.stream ∧ t.halted = s.halted

/-! ### Steps -/

/-- R51, R162: when the bytes at the head of the command stream decode to a command, a step is the meaning of that command
on the state without those bytes. That the step is then the waiting command's and not a client's is the model's choice
(log 1): the rules fix only the order of the commands. -/
def Obligations.StepRunsTheDecodedCommand : Prop :=
  ∀ (s : State) (i : Instr) (rest : List Byte), decode s.stream = .command i rest →
    step s = exec i { s with stream := rest }

/-- R162: the chip executes the commands of the command stream one at a time, in stream order, each complete before the
next starts. That no client's step comes between them is the model's choice (log 1). -/
def Obligations.StreamRunsInOrder : Prop :=
  ∀ (is : List Instr) (rest : List Byte) (s : State), (∀ i ∈ is, i.wellFormed = true) →
    ∃ t, execAll is { s with stream := rest } = .next t ∧
      Sys2Proof.core.run is.length { s with stream := is.flatMap encode ++ rest } = .next t

/-- The state after reset, field by field. R37 and R290 give the session and the device, but for the split of `D.rx` into a
list and a count of deliverable bytes (log 12); R7 gives the values of the parameters, which the model holds in its state
(log 14). The rest is of the model: nothing waits in the command stream, since the chip has executed `OPEN_SEQ` (log 1);
there is one client, with nothing to do (log 15); the history and that client's results are empty, so the `Send` of this
`open` and its session are in neither (log 35); the record of the data lines is empty (log 13); no answer of a free value is
given and every counter is 0 (log 33). -/
def Obligations.ResetIsTheStateAfterOpen : Prop :=
  State.reset.session =
    some ⟨false, .uncommitted, Vector.replicate 12 true, .free⟩ ∧
  State.reset.device = {
    latch := ⟨0x00, 0x00⟩, dir := ⟨0xFF, 0xFF⟩, loopback := false, divisor := none, div5 := false,
    threePhase := false, adaptive := false, rx := [], flushed := 0, sync := true } ∧
  State.reset.stream = [] ∧ State.reset.history = [] ∧ State.reset.halted = false ∧
  State.reset.clients = [⟨[], none, [], [], [], []⟩] ∧
  State.reset.params = ⟨false, false, false, .reject, true⟩ ∧
  State.reset.serial = [] ∧ State.reset.oracle = Oracle.untouched

/-! ### Transport (00_scope.md R4) -/

/-- R4, R51, R163: a successful `Send` puts its bytes at the end of the command stream and its event at the end of the
history, and does nothing else. A failed `Send` leaves every field of `D` unspecified, with `D.sync` false, and adds
nothing to the command stream; of the rest only the history changes. The unspecified fields are the model's free values
(log 5), and that the record of the data lines gains nothing, whichever of the commands ran (R58), is the model's choice
(log 5, 13). -/
def Obligations.SendAppendsToStreamOrHavocksDevice : Prop :=
  ∀ (s : State) (c : Nat) (bs : List Byte) (os : List (Option TransportError)),
    (s.oracle.outcome.given = none :: os →
      s.send c bs = (none, { s with
        stream := s.stream ++ bs
        history := s.history ++ [.send c bs none]
        oracle := { s.oracle with outcome := ⟨os, s.oracle.outcome.used⟩ } })) ∧
    (∀ e, s.oracle.outcome.given = some e :: os → ∃ k o,
      s.send c bs = (some e, { s with
        device := Device.unspecified k
        history := s.history ++ [.send c bs (some e)]
        oracle := o }) ∧ (Device.unspecified k).sync = false)

/-- R52, R161: in step, a `Receive(n)` whose bytes are deliverable returns the first `n` bytes of `D.rx` and removes them,
and changes nothing else but the history. -/
def Obligations.ReceiveTakesFromTheFront : Prop :=
  ∀ (s : State) (c n : Nat) (os : List (Option TransportError)),
    s.oracle.outcome.given = none :: os → s.device.sync = true →
    n ≤ s.device.flushed → s.device.flushed ≤ s.device.rx.length →
    s.receive c n = (.bytes (s.device.rx.take n), { s with
      device := { s.device with rx := s.device.rx.drop n, flushed := s.device.flushed - n }
      history := s.history ++ [.receive c n (.ok (s.device.rx.take n))]
      oracle := { s.oracle with outcome := ⟨os, s.oracle.outcome.used⟩ } })

/-- R161 (U10), R164 (U9): in step, a `Receive(n)` whose bytes exist but are not all deliverable completes or hangs, by the
free choice, and one whose bytes do not exist hangs. Out of step, one that the transport does not fail hangs or returns
`n` bytes, by the free choice, and the bytes can be any. One that completes removes `n` bytes from the front of `D.rx`
with their marks and adds its event; one that hangs leaves `D` and the history alone. A step is stuck exactly if no whole
command waits, the run has not halted, no client has a step, and some client has work left. The form of the choice, the
bytes removed out of step, the fault, and the wait for the rest of a command are the model's (log 7, 8, 18). -/
def Obligations.ReceiveThatMayHangAndStuckStep : Prop :=
  (∀ (s : State) (c n : Nat) (b : Bool) (os : List (Option TransportError)) (cs : List Bool) (o o' : Oracle),
    s.oracle.outcome.given = none :: os → s.oracle.completes.given = b :: cs →
    o = { s.oracle with outcome := ⟨os, s.oracle.outcome.used⟩ } →
    o' = { o with completes := ⟨cs, s.oracle.completes.used⟩ } →
    (s.device.sync = true → n ≤ s.device.rx.length → s.device.flushed < n →
      s.receive c n =
        if b then (.bytes (s.device.rx.take n), { s with
          device := { s.device with rx := s.device.rx.drop n, flushed := 0 }
          history := s.history ++ [.receive c n (.ok (s.device.rx.take n))]
          oracle := o' })
        else (.hangs, { s with oracle := o' })) ∧
    (s.device.sync = true → s.device.rx.length < n → s.receive c n = (.hangs, { s with oracle := o })) ∧
    (∀ bs rs, s.device.sync = false → bs.length = n → s.oracle.response.given = bs ++ rs →
      s.receive c n =
        if b then (.bytes bs, { s with
          device := { s.device with rx := s.device.rx.drop n, flushed := s.device.flushed - n }
          history := s.history ++ [.receive c n (.ok bs)]
          oracle := { o' with response := ⟨rs, s.oracle.response.used⟩ } })
        else (.hangs, { s with oracle := o' }))) ∧
  (∀ s : State, step s = .fault .stuck ↔
    decode s.stream = .truncated ∧ s.halted = false ∧ s.ready = [] ∧ s.allDone = false)

/-- R164, R300: a failed `Receive` removes between 0 and `n` bytes from the front of `D.rx`, clears `D.sync`, and changes
nothing else of the machine but the history. -/
def Obligations.FailedReceiveLosesSomeBytes : Prop :=
  ∀ (s : State) (c n : Nat) (e : TransportError) (os : List (Option TransportError)),
    s.oracle.outcome.given = some e :: os → ∃ k o, k ≤ n ∧
      s.receive c n = (.failed e, { s with
        device := { s.device with rx := s.device.rx.drop k, flushed := s.device.flushed - k, sync := false }
        history := s.history ++ [.receive c n (.err e)]
        oracle := o })

/-! ### The session (40_session.md) -/

/-- R100, R37, R291: `open` by the one client that can move, on a device that opens and whose `Send` succeeds: the ten
bytes are sent, the session is made, and the fields that those bytes write are as in R37, whatever they were before, with
the divisor at "no value". With `OPEN_CLEAN` the queue is empty and in step, so the device is in the state of R37; without
it the queue is a free value and `D.sync` is false. That `open` is a call of a client is the model's choice (log 36), and so
is it that this holds of an `open` after an `InitError` and of every later `open`, not of the first alone (log 37). -/
def Obligations.OpenReachesTheResetState : Prop :=
  ∀ (s : State) (c : Nat) (cl : Client) (calls : List Call) (os : List (Option TransportError)) (ds : List Bool),
    s.session = none → s.clients[c]? = some cl → cl.calls = .openSession :: calls → cl.running = none → s.ready = [c] →
    s.stream = [] → s.halted = false → s.oracle.opens.given = true :: ds → s.oracle.outcome.given = none :: os →
    ∃ t rx marks, Reaches s t ∧ t.session = State.reset.session ∧
      t.device = { State.reset.device with rx := rx, flushed := marks, sync := s.params.openClean } ∧
      (s.params.openClean = true → rx = [] ∧ marks = 0) ∧ t.stream = [] ∧
      t.clients = s.clients.set c (cl.after calls (.ok .session)) ∧
      t.history = s.history ++ [.send c [0x8A, 0x97, 0x8D, 0x85, 0x80, 0x00, 0xFF, 0x82, 0x00, 0xFF] none] ∧
      t.params = s.params ∧ t.serial = s.serial ∧ t.halted = false

/-- R100, R101, R270, R271: when the device cannot be opened the history ends with `Halt`, no session exists, and no
further step is taken. When it opens and the `Send` of `open` fails, `InitError` wraps the transport's error, no session
exists, and the device is out of step. That `open` is a call of a client is the model's choice (log 36), and so is it that
this `open` may itself follow an `InitError` (log 37). -/
def Obligations.OpenFailureLeavesNoSession : Prop :=
  ∀ (s : State) (c : Nat) (cl : Client) (calls : List Call) (opens : Bool) (ds : List Bool),
    s.session = none → s.clients[c]? = some cl → cl.calls = .openSession :: calls → cl.running = none → s.ready = [c] →
    s.stream = [] → s.halted = false → s.oracle.opens.given = opens :: ds →
    (opens = false → ∃ t, Reaches s t ∧ t.session = none ∧ t.history = s.history ++ [.halt] ∧
      step t = .fault .halted) ∧
    (∀ e os, opens = true → s.oracle.outcome.given = some e :: os → ∃ t, Reaches s t ∧ t.session = none ∧
      t.device.sync = false ∧ t.halted = false ∧ t.clients = s.clients.set c (cl.after calls (.err (.init e))) ∧
      t.history = s.history ++ [.send c [0x8A, 0x97, 0x8D, 0x85, 0x80, 0x00, 0xFF, 0x82, 0x00, 0xFF] (some e)])

/-- R102: `setLoopback` writes the flag and sends `84` or `85`; the chip's mode follows. When the `Send` fails the flag
stays written, or is restored with `LOOPBACK_ROLLBACK`, and the device is out of step. -/
def Obligations.SetLoopbackWritesFlagAndSends : Prop :=
  ∀ (s : State) (S : Session) (c : Nat) (cl : Client) (enabled : Bool) (calls : List Call),
    Calling s S c cl (.setLoopback enabled) calls →
    (∀ os, s.oracle.outcome.given = none :: os →
      Reaches s { s with
        session := some { S with loopback := enabled }
        device := { s.device with loopback := enabled }
        clients := s.clients.set c (cl.after calls (.ok .unit))
        history := s.history ++ [.send c [if enabled then 0x84 else 0x85] none]
        oracle := { s.oracle with outcome := ⟨os, s.oracle.outcome.used⟩ } }) ∧
    (∀ e os, s.oracle.outcome.given = some e :: os → ∃ t, Reaches s t ∧
      t.session = some { S with loopback := if s.params.loopbackRollback then S.loopback else enabled } ∧
      t.device.sync = false ∧ t.clients = s.clients.set c (cl.after calls (.err (.transport e))) ∧
      t.history = s.history ++ [.send c [if enabled then 0x84 else 0x85] (some e)])

/-- R103: for every frequency up to `F0`, `div(f) + 1` is the integer nearest to `F0 / (2 f)`, halves rounded up. -/
def Obligations.DivisorFormulaRoundsToNearest : Prop :=
  ∀ f : Nat, 0 < f → f ≤ 60000000 →
    2 * f * (divisorOf f + 1) ≤ 60000000 + f ∧ 60000000 + f < 2 * f * (divisorOf f + 2)

/-- R104, R302: the table's divisor of each speed class is the formula's, and the bus clock it makes is the requested
frequency for every class but `M20`, for which it is 15 MHz. R106, R107: Auto resolves to the default of its bus; a
request is compatible with a committed speed exactly if it is Auto or resolves to it. -/
def Obligations.SpeedClassesDivisorsAndCompatibility : Prop :=
  (∀ v : SpiSpeed, v.divisor.toNat = divisorOf v.hz) ∧ (∀ v : I2cSpeed, v.divisor.toNat = divisorOf v.hz) ∧
  (∀ d : Device, d.div5 = false → d.threePhase = false → d.adaptive = false →
    (∀ v : SpiSpeed, (d.setDivisor v.divisor).busClock = some (if v = .m20 then 15000000 else (v.hz : Rat))) ∧
    (∀ v : I2cSpeed, (d.setDivisor v.divisor).busClock = some (v.hz : Rat))) ∧
  (SpiSpeed.resolve .auto = .m1 ∧ I2cSpeed.resolve .auto = .k100) ∧
  (∀ r : SpiSpeed, r ≠ .auto → r.resolve = r) ∧ (∀ r : I2cSpeed, r ≠ .auto → r.resolve = r) ∧
  (∀ c r : SpiSpeed, c.compatible r = true ↔ r = .auto ∨ r.resolve = c) ∧
  (∀ c r : I2cSpeed, c.compatible r = true ↔ r = .auto ∨ r.resolve = c)

/-- R108, R264, R265: `requestSpi`, whole: busy under I2C; a handle or `InvalidClock` under SPI, with nothing sent; and on
the first commit the setup of the low bank and the divisor in one `Send`, the commit only after it succeeds. -/
def Obligations.RequestSpiFollowsBusMode : Prop :=
  ∀ (s : State) (S : Session) (c : Nat) (cl : Client) (speed : SpiSpeed) (calls : List Call),
    Calling s S c cl (.requestSpi speed) calls →
    (∀ v, S.busMode = .i2c v → Reaches s { s with clients := s.clients.set c (cl.after calls (.err .busBusy)) }) ∧
    (∀ v, S.busMode = .spi v → v.compatible speed = false →
      Reaches s { s with clients := s.clients.set c (cl.after calls (.err .invalidClock)) }) ∧
    (∀ v, S.busMode = .spi v → v.compatible speed = true →
      Reaches s { s with
        clients := s.clients.set c
          { cl.after calls (.ok (.spiHandle cl.spi.length)) with spi := cl.spi ++ [⟨speed, .mode0⟩] } }) ∧
    (∀ os, S.busMode = .uncommitted → s.oracle.outcome.given = none :: os →
      Reaches s { s with
        session := some { S with busMode := .spi speed.resolve }
        device := { s.device with
          latch := ⟨0x00, s.device.latch.high⟩, dir := ⟨0xFB, s.device.dir.high⟩, divisor := some speed.resolve.divisor }
        clients := s.clients.set c
          { cl.after calls (.ok (.spiHandle cl.spi.length)) with spi := cl.spi ++ [⟨speed, .mode0⟩] }
        history := s.history ++
          [.send c [0x80, 0x00, 0xFB, 0x86, lo8 speed.resolve.divisor, hi8 speed.resolve.divisor] none]
        oracle := { s.oracle with outcome := ⟨os, s.oracle.outcome.used⟩ } }) ∧
    (∀ e os, S.busMode = .uncommitted → s.oracle.outcome.given = some e :: os → ∃ t, Reaches s t ∧
      t.session = some S ∧ t.device.sync = false ∧
      t.clients = s.clients.set c (cl.after calls (.err (.transport e))))

/-- R109, R264, R265: `requestI2c`, whole, symmetric to `requestSpi`. -/
def Obligations.RequestI2cFollowsBusMode : Prop :=
  ∀ (s : State) (S : Session) (c : Nat) (cl : Client) (speed : I2cSpeed) (calls : List Call),
    Calling s S c cl (.requestI2c speed) calls →
    (∀ v, S.busMode = .spi v → Reaches s { s with clients := s.clients.set c (cl.after calls (.err .busBusy)) }) ∧
    (∀ v, S.busMode = .i2c v → v.compatible speed = false →
      Reaches s { s with clients := s.clients.set c (cl.after calls (.err .invalidClock)) }) ∧
    (∀ v, S.busMode = .i2c v → v.compatible speed = true →
      Reaches s { s with
        clients := s.clients.set c
          { cl.after calls (.ok (.i2cHandle cl.i2c.length)) with i2c := cl.i2c ++ [⟨speed⟩] } }) ∧
    (∀ os, S.busMode = .uncommitted → s.oracle.outcome.given = none :: os →
      Reaches s { s with
        session := some { S with busMode := .i2c speed.resolve }
        device := { s.device with
          latch := ⟨0x03, s.device.latch.high⟩, dir := ⟨0xFB, s.device.dir.high⟩, divisor := some speed.resolve.divisor }
        clients := s.clients.set c
          { cl.after calls (.ok (.i2cHandle cl.i2c.length)) with i2c := cl.i2c ++ [⟨speed⟩] }
        history := s.history ++
          [.send c [0x80, 0x03, 0xFB, 0x86, lo8 speed.resolve.divisor, hi8 speed.resolve.divisor] none]
        oracle := { s.oracle with outcome := ⟨os, s.oracle.outcome.used⟩ } }) ∧
    (∀ e os, S.busMode = .uncommitted → s.oracle.outcome.given = some e :: os → ∃ t, Reaches s t ∧
      t.session = some S ∧ t.device.sync = false ∧
      t.clients = s.clients.set c (cl.after calls (.err (.transport e))))

/-- R29, R110, R25: the valid descriptors are exactly those of the twelve named pins, and their indices are the twelve
places of `S.pinAvailable`, each once. -/
def Obligations.NamedPinsAreTheValidDescriptors : Prop :=
  (∀ (bit : Nat) (bank : Bank), pinValid bit bank = true ↔ ∃ n : PinName, n.descriptor = (bit, bank)) ∧
  (∀ (bit : Nat) (bank : Bank), pinValid bit bank = true → pinIndex bit bank < 12) ∧
  (∀ (bit bit' : Nat) (bank bank' : Bank), pinValid bit bank = true → pinValid bit' bank' = true →
    pinIndex bit bank = pinIndex bit' bank' → bit = bit' ∧ bank = bank') ∧
  (∀ i < 12, ∃ n : PinName, pinIndex n.descriptor.1 n.descriptor.2 = i) ∧
  (∀ n n' : PinName, n.descriptor = n'.descriptor → n = n')

/-- R111, R267, R268: `acquirePin`, whole: an invalid descriptor first, then a pin handed out before, else the flag is
cleared and a handle returned; nothing is sent. -/
def Obligations.AcquirePinChecksThenClaims : Prop :=
  ∀ (s : State) (S : Session) (c : Nat) (cl : Client) (bit : Nat) (bank : Bank) (calls : List Call),
    Calling s S c cl (.acquirePin bit bank) calls →
    (pinValid bit bank = false →
      Reaches s { s with clients := s.clients.set c (cl.after calls (.err .gpioInvalidPin)) }) ∧
    (pinValid bit bank = true → S.available (pinIndex bit bank) = false →
      Reaches s { s with clients := s.clients.set c (cl.after calls (.err .gpioPinBusy)) }) ∧
    (pinValid bit bank = true → S.available (pinIndex bit bank) = true →
      Reaches s { s with
        session := some { S with pinAvailable := S.pinAvailable.setIfInBounds (pinIndex bit bank) false }
        clients := s.clients.set c
          { cl.after calls (.ok (.pinHandle cl.pins.length)) with pins := cl.pins ++ [some ⟨bank, bit⟩] } })

/-- R112: at the end of a pin handle's lifetime its flag is set again exactly if `PIN_RELEASE`; nothing is sent. That the
end is a call `dropPin`, which empties the handle's slot and returns a unit, is the model's choice (log 20). -/
def Obligations.PinLifetimeEndReleasesOnlyIfConfigured : Prop :=
  ∀ (s : State) (S : Session) (c : Nat) (cl : Client) (h : Nat) (pin : PinHandle) (calls : List Call),
    Calling s S c cl (.dropPin h) calls → cl.pin h = some pin →
    Reaches s { s with
      session := some (if s.params.pinRelease then
        { S with pinAvailable := S.pinAvailable.setIfInBounds (pinIndex pin.bit pin.bank) true } else S)
      clients := s.clients.set c { cl.after calls (.ok .unit) with pins := cl.pins.set h none } }

/-- R113, R294: teardown ends the session and every handle of every client, sends nothing and raises nothing. It has no step
while an operation is in progress, and without a session no call but `open` has one. That teardown is a client's call and
that the purge empties `D.rx` are the model's choice (log 19), and so is it that a call which cannot be made has no step
(log 16). -/
def Obligations.TeardownEndsSessionAndHandles : Prop :=
  (∀ (s : State) (S : Session) (c : Nat) (cl : Client) (calls : List Call),
    Calling s S c cl .teardown calls →
    Reaches s { s with
      session := none
      device := { s.device with rx := [], flushed := 0 }
      clients := (s.clients.map fun x => { x with spi := [], i2c := [], pins := [] }).set c
        { cl.after calls (.ok .unit) with spi := [], i2c := [], pins := [] } }) ∧
  (∀ (s : State) (cl x : Client) (r : Running), x ∈ s.clients → x.running = some r →
    s.callPossible cl .teardown = false) ∧
  (∀ (s : State) (cl : Client) (call : Call), s.session = none → call ≠ .openSession → s.callPossible cl call = false)

/-! ### The I2C engine (42_i2c.md) -/

/-- R182, R183, R184, R185, R187: the bytes of the phases, and what START and STOP leave on the chip. R185 and R187 count
more bytes than they list; the model sends the 13 listed (log 24). -/
def Obligations.I2cPhaseBytesAndLines : Prop :=
  i2cStart = [0x80, 0x03, 0xFB, 0x80, 0x03, 0xFB, 0x80, 0x03, 0xFB, 0x80, 0x03, 0xFB,
    0x80, 0x01, 0xFB, 0x80, 0x01, 0xFB, 0x80, 0x01, 0xFB, 0x80, 0x01, 0xFB,
    0x80, 0x00, 0xFB, 0x80, 0x00, 0xFB, 0x80, 0x00, 0xFB, 0x80, 0x00, 0xFB] ∧
  i2cStop = [0x80, 0x01, 0xFB, 0x80, 0x01, 0xFB, 0x80, 0x01, 0xFB, 0x80, 0x01, 0xFB,
    0x80, 0x03, 0xFB, 0x80, 0x03, 0xFB, 0x80, 0x03, 0xFB, 0x80, 0x03, 0xFB,
    0x80, 0x03, 0xF8, 0x80, 0x03, 0xF8, 0x80, 0x03, 0xF8, 0x80, 0x03, 0xF8] ∧
  (∀ b : Byte, i2cWriteByte b =
    [0x80, 0x00, 0xFB, 0x11, 0x00, 0x00, b, 0x80, 0x00, 0xF9, 0x22, 0x00, 0x87]) ∧
  (∀ last : Bool, i2cReadByte last =
    [0x80, 0x00, 0xF9, 0x20, 0x00, 0x00, 0x80, 0x00, 0xFB, 0x13, 0x00, if last then 0xFF else 0x00, 0x87]) ∧
  ∀ s : State,
    Reaches { s with stream := i2cStart } { s with
      stream := []
      device := { s.device with latch := ⟨0x00, s.device.latch.high⟩, dir := ⟨0xFB, s.device.dir.high⟩ } } ∧
    Reaches { s with stream := i2cStop } { s with
      stream := []
      device := { s.device with latch := ⟨0x03, s.device.latch.high⟩, dir := ⟨0xF8, s.device.dir.high⟩ } }

/-- R186, R191: the acknowledge is bit 0 of the response byte, low for ACK; the address byte is twice the address, plus one
for a read, for every 7-bit address. -/
def Obligations.AckBitAndAddressByte : Prop :=
  (∀ r : Byte, ackOf r = .ack ↔ r.toNat % 2 = 0) ∧
  (∀ a : Byte, a.toNat ≤ 0x7F → (addrW a).toNat = 2 * a.toNat ∧ (addrR a).toNat = 2 * a.toNat + 1)

/-- R195, R190: an `i2c.write` whose every byte is acknowledged sends START, the address phase, one write phase for each
byte and STOP, each phase one `Send` and each byte phase one `Receive(1)`, returns `Ok`, writes no field of `S`, and
leaves the lines released. -/
def Obligations.I2cWriteAcknowledged : Prop :=
  ∀ (s : State) (S : Session) (c : Nat) (cl : Client) (h : Nat) (addr : Byte) (bytes acks rs : List Byte)
    (os : List (Option TransportError)) (calls : List Call),
    Calling s S c cl (.i2cWrite h addr bytes) calls → h < cl.i2c.length → s.device.Quiet →
    bytes ≠ [] → (s.params.i2cAddrPolicy = .reject → addr.toNat ≤ 0x7F) →
    acks.length = bytes.length + 1 → (∀ a ∈ acks, a.getLsbD 0 = false) →
    s.oracle.response.given = acks ++ rs →
    s.oracle.outcome.given = List.replicate (2 * bytes.length + 4) none ++ os →
    ∃ t, Reaches s t ∧ t.session = some S ∧ t.clients = s.clients.set c (cl.after calls (.ok .unit)) ∧
      t.history = s.history ++ [.send c i2cStart none] ++
        (((addr <<< 1) :: bytes).zip acks).flatMap (fun x =>
          [.send c (i2cWriteByte x.1) none, .receive c 1 (.ok [x.2])]) ++ [.send c i2cStop none] ∧
      t.device = { s.device with latch := ⟨0x03, s.device.latch.high⟩, dir := ⟨0xF8, s.device.dir.high⟩ } ∧
      t.stream = [] ∧ t.params = s.params ∧ t.halted = false

/-- R193, R195, R196, R197, R266: the first byte that is not acknowledged ends a transaction: no further byte phase, a STOP,
and `I2cNoAck`. The byte is the write address or a data byte of an `i2c.write` or of the write part of an
`i2c.writeThenRead`, the address of an `i2c.read`, or the read address of an `i2c.writeThenRead`. -/
def Obligations.I2cNotAcknowledged : Prop :=
  ∀ (s : State) (S : Session) (c : Nat) (cl : Client) (h : Nat) (addr nack : Byte) (n : Nat) (bytes acks rs : List Byte)
    (exchange : Byte → Byte → List Event) (phases : List Event) (os : List (Option TransportError)) (calls : List Call),
    h < cl.i2c.length → s.device.Quiet → (s.params.i2cAddrPolicy = .reject → addr.toNat ≤ 0x7F) →
    (exchange = fun b r => [.send c (i2cWriteByte b) none, .receive c 1 (.ok [r])]) →
    ((Calling s S c cl (.i2cWrite h addr bytes) calls ∨
          Calling s S c cl (.i2cWriteThenRead h addr bytes n) calls ∧ 0 < n) ∧
        bytes ≠ [] ∧ (∃ sent last unsent, (addr <<< 1) :: bytes = sent ++ last :: unsent ∧ acks.length = sent.length ∧
          phases = (sent.zip acks).flatMap (fun x => exchange x.1 x.2) ++ exchange last nack) ∨
      Calling s S c cl (.i2cRead h addr n) calls ∧ 0 < n ∧ acks = [] ∧ phases = exchange ((addr <<< 1) ||| 1) nack ∨
      Calling s S c cl (.i2cWriteThenRead h addr bytes n) calls ∧ 0 < n ∧ bytes ≠ [] ∧ acks.length = bytes.length + 1 ∧
        phases = (((addr <<< 1) :: bytes).zip acks).flatMap (fun x => exchange x.1 x.2) ++
          [.send c i2cStart none] ++ exchange ((addr <<< 1) ||| 1) nack) →
    (∀ a ∈ acks, a.getLsbD 0 = false) → nack.getLsbD 0 = true →
    s.oracle.response.given = acks ++ nack :: rs →
    s.oracle.outcome.given = List.replicate (phases.length + 2) none ++ os →
    ∃ t, Reaches s t ∧ t.session = some S ∧ t.clients = s.clients.set c (cl.after calls (.err .i2cNoAck)) ∧
      t.history = s.history ++ [.send c i2cStart none] ++ phases ++ [.send c i2cStop none] ∧
      t.device = { s.device with latch := ⟨0x03, s.device.latch.high⟩, dir := ⟨0xF8, s.device.dir.high⟩ } ∧
      t.stream = [] ∧ t.params = s.params ∧ t.halted = false

/-- R196, R188: an `i2c.read` of `n` bytes whose address is acknowledged sends START, the address phase, `n` read phases of
which only the last is answered with NACK, and STOP, and returns the bytes received. -/
def Obligations.I2cReadAcknowledged : Prop :=
  ∀ (s : State) (S : Session) (c : Nat) (cl : Client) (h : Nat) (addr ack : Byte) (data rs : List Byte)
    (os : List (Option TransportError)) (calls : List Call),
    Calling s S c cl (.i2cRead h addr data.length) calls → h < cl.i2c.length → s.device.Quiet →
    data ≠ [] → (s.params.i2cAddrPolicy = .reject → addr.toNat ≤ 0x7F) → ack.getLsbD 0 = false →
    s.oracle.response.given = ack :: data ++ rs →
    s.oracle.outcome.given = List.replicate (2 * data.length + 4) none ++ os →
    ∃ t, Reaches s t ∧ t.session = some S ∧ t.clients = s.clients.set c (cl.after calls (.ok (.bytes data))) ∧
      t.history = s.history ++ [.send c i2cStart none, .send c (i2cWriteByte ((addr <<< 1) ||| 1)) none,
        .receive c 1 (.ok [ack])] ++
        data.zipIdx.flatMap (fun x =>
          [.send c (i2cReadByte (decide (x.2 + 1 = data.length))) none, .receive c 1 (.ok [x.1])]) ++
        [.send c i2cStop none] ∧
      t.device = { s.device with latch := ⟨0x03, s.device.latch.high⟩, dir := ⟨0xF8, s.device.dir.high⟩ } ∧
      t.stream = [] ∧ t.params = s.params ∧ t.halted = false

/-- R197: an `i2c.writeThenRead` whose every byte is acknowledged sends START, the write part, a repeated START in place of a
STOP, the read address and the read part, and STOP, and returns the bytes received. -/
def Obligations.I2cWriteThenReadAcknowledged : Prop :=
  ∀ (s : State) (S : Session) (c : Nat) (cl : Client) (h : Nat) (addr ack : Byte) (bytes acks data rs : List Byte)
    (os : List (Option TransportError)) (calls : List Call),
    Calling s S c cl (.i2cWriteThenRead h addr bytes data.length) calls → h < cl.i2c.length → s.device.Quiet →
    bytes ≠ [] → data ≠ [] → (s.params.i2cAddrPolicy = .reject → addr.toNat ≤ 0x7F) →
    acks.length = bytes.length + 1 → (∀ a ∈ acks, a.getLsbD 0 = false) → ack.getLsbD 0 = false →
    s.oracle.response.given = acks ++ ack :: data ++ rs →
    s.oracle.outcome.given = List.replicate (2 * bytes.length + 2 * data.length + 7) none ++ os →
    ∃ t, Reaches s t ∧ t.session = some S ∧ t.clients = s.clients.set c (cl.after calls (.ok (.bytes data))) ∧
      t.history = s.history ++ [.send c i2cStart none] ++
        (((addr <<< 1) :: bytes).zip acks).flatMap (fun x =>
          [.send c (i2cWriteByte x.1) none, .receive c 1 (.ok [x.2])]) ++
        [.send c i2cStart none, .send c (i2cWriteByte ((addr <<< 1) ||| 1)) none, .receive c 1 (.ok [ack])] ++
        data.zipIdx.flatMap (fun x =>
          [.send c (i2cReadByte (decide (x.2 + 1 = data.length))) none, .receive c 1 (.ok [x.1])]) ++
        [.send c i2cStop none] ∧
      t.device = { s.device with latch := ⟨0x03, s.device.latch.high⟩, dir := ⟨0xF8, s.device.dir.high⟩ } ∧
      t.stream = [] ∧ t.params = s.params ∧ t.halted = false

/-- R194, R261, R262: a transport error of a `Send` or `Receive` of an operation that holds the lock ends it at once: the
error is returned with the transport's payload, the lock is released, the device is out of step, and nothing else is
sent. R193, R266: the one exception is the STOP after a NACK, whose failure the operation ignores: it goes on to return
`I2cNoAck`. -/
def Obligations.TransportErrorEndsTheOperation : Prop :=
  ∀ (s : State) (S : Session) (c : Nat) (cl : Client) (r : Running) (a : Act) (rest : List Act) (ev : Event)
    (e : TransportError) (os : List (Option TransportError)),
    s.session = some S → S.lock = .held c → s.clients[c]? = some cl → cl.running = some r → r.todo = a :: rest →
    s.ready = [c] → s.stream = [] → s.halted = false → s.oracle.outcome.given = some e :: os →
    ((∃ ph bs, a = .send ph bs ∧ ev = .send c bs (some e)) ∨ (a = .ack ∧ ev = .receive c 1 (.err e)) ∨
      (∃ n, a = .read n ∧ ev = .receive c n (.err e)) ∨
      (∃ bank bit level, a = .readBank bank bit level ∧ ev = .receive c 1 (.err e)) →
      ∃ t, step s = .next t ∧ t.session = some { S with lock := .free } ∧ t.device.sync = false ∧ t.stream = [] ∧
        t.history = s.history ++ [ev] ∧ t.clients = s.clients.set c
          { cl with running := none, results := cl.results ++ [.err (.transport e)] }) ∧
    (a = .stopAfterNack → rest = [.raise .i2cNoAck] →
      ∃ t u, step s = .next t ∧ t.session = some S ∧ t.device.sync = false ∧
        t.history = s.history ++ [.send c i2cStop (some e)] ∧
        u = t.clientStep c ∧ u.session = some { S with lock := .free } ∧ u.history = t.history ∧
        u.clients = s.clients.set c { cl with running := none, results := cl.results ++ [.err .i2cNoAck] })

/-- R192, R198, R223, R263, R272: empty I2C writes and reads and empty SPI transfers and writes return `Ok` before any other
check; an empty side of `writeThenRead`, with `I2C_ADDR_POLICY = reject` an address above 0x7F, and an SPI buffer of more
than 65 536 bytes are `InvalidParams`. Nothing is sent and nothing else changes. -/
def Obligations.ArgumentChecksComeBeforeTheTransport : Prop :=
  ∀ (s : State) (S : Session) (c : Nat) (cl : Client) (h : Nat) (addr : Byte) (bytes : List Byte) (n : Nat)
    (calls : List Call),
    (h < cl.i2c.length →
      (Calling s S c cl (.i2cWrite h addr []) calls →
        Reaches s { s with clients := s.clients.set c (cl.after calls (.ok .unit)) }) ∧
      (Calling s S c cl (.i2cRead h addr 0) calls →
        Reaches s { s with clients := s.clients.set c (cl.after calls (.ok (.bytes []))) }) ∧
      (Calling s S c cl (.i2cWriteThenRead h addr bytes n) calls → bytes = [] ∨ n = 0 →
        Reaches s { s with clients := s.clients.set c (cl.after calls (.err .invalidParams)) }) ∧
      (s.params.i2cAddrPolicy = .reject → 0x7F < addr.toNat → bytes ≠ [] → 0 < n →
        (Calling s S c cl (.i2cWrite h addr bytes) calls ∨ Calling s S c cl (.i2cRead h addr n) calls ∨
          Calling s S c cl (.i2cWriteThenRead h addr bytes n) calls) →
        Reaches s { s with clients := s.clients.set c (cl.after calls (.err .invalidParams)) })) ∧
    (h < cl.spi.length →
      (Calling s S c cl (.spiTransfer h []) calls →
        Reaches s { s with clients := s.clients.set c (cl.after calls (.ok (.bytes []))) }) ∧
      (Calling s S c cl (.spiWrite h []) calls →
        Reaches s { s with clients := s.clients.set c (cl.after calls (.ok .unit)) }) ∧
      (Calling s S c cl (.spiTransfer h bytes) calls ∨ Calling s S c cl (.spiWrite h bytes) calls →
        65536 < bytes.length → Reaches s { s with clients := s.clients.set c (cl.after calls (.err .invalidParams)) }))

/-! ### The SPI controller (43_spi.md) -/

/-- R220, R222, R269: `setMode` accepts (0,0) and (1,0), and refuses the other two whatever the handle's mode; it sends
nothing. -/
def Obligations.SetModeAcceptsModes0And2 : Prop :=
  ∀ (s : State) (S : Session) (c : Nat) (cl : Client) (h : Nat) (cpol cpha : Bool) (calls : List Call),
    Calling s S c cl (.spiSetMode h cpol cpha) calls → h < cl.spi.length →
    (cpha = true → Reaches s { s with clients := s.clients.set c (cl.after calls (.err .spiModeNotSupported)) }) ∧
    (cpha = false → Reaches s { s with
      clients := s.clients.set c { cl.after calls (.ok .unit) with
        spi := cl.spi.modify h fun x => { x with mode := if cpol then .mode2 else .mode0 } } })

/-- R224, R221, R226, R227: an SPI transfer of 1 to 65 536 bytes is one `Send` of the mode's full-duplex command and the
flush, and one `Receive`; it returns as many bytes as it sent, under loopback exactly the payload, and changes neither
`S` nor the banks. -/
def Obligations.SpiTransferExchangesPayload : Prop :=
  ∀ (s : State) (S : Session) (c : Nat) (cl : Client) (h : Nat) (x : SpiHandle) (p : List Byte)
    (os : List (Option TransportError)) (calls : List Call),
    Calling s S c cl (.spiTransfer h p) calls → cl.spi[h]? = some x → s.device.Quiet →
    p ≠ [] → p.length ≤ 65536 → s.oracle.outcome.given = none :: none :: os →
    ∃ t r, Reaches s t ∧ r.length = p.length ∧ (s.device.loopback = true → r = p) ∧
      t.session = some S ∧ t.device = s.device ∧ t.clients = s.clients.set c (cl.after calls (.ok (.bytes r))) ∧
      t.history = s.history ++
        [.send c ((match x.mode with | .mode0 => 0x31 | .mode2 => 0x34) ::
            lo8 (BitVec.ofNat 16 (p.length - 1)) :: hi8 (BitVec.ofNat 16 (p.length - 1)) :: (p ++ [0x87])) none,
          .receive c p.length (.ok r)]

/-- R225, R221, R226: an SPI write of 1 to 65 536 bytes is one `Send` of the mode's write-only command, with no flush and
no `Receive`, and changes neither `S` nor `D`. -/
def Obligations.SpiWriteSendsPayload : Prop :=
  ∀ (s : State) (S : Session) (c : Nat) (cl : Client) (h : Nat) (x : SpiHandle) (p : List Byte)
    (os : List (Option TransportError)) (calls : List Call),
    Calling s S c cl (.spiWrite h p) calls → cl.spi[h]? = some x →
    p ≠ [] → p.length ≤ 65536 → s.oracle.outcome.given = none :: os →
    ∃ t, Reaches s t ∧ t.session = some S ∧ t.device = s.device ∧
      t.clients = s.clients.set c (cl.after calls (.ok .unit)) ∧
      t.history = s.history ++
        [.send c ((match x.mode with | .mode0 => 0x11 | .mode2 => 0x10) ::
            lo8 (BitVec.ofNat 16 (p.length - 1)) :: hi8 (BitVec.ofNat 16 (p.length - 1)) :: p) none]

/-! ### GPIO (44_gpio.md) -/

/-- R242, R243, R244, R241: `setHigh` and `setLow` read the bank, set or clear the handle's bit in the byte read, and write
that byte back with the bank's fixed direction; every other bit written is the bit read. -/
def Obligations.GpioSetWritesBackTheByteRead : Prop :=
  ∀ (s : State) (S : Session) (c : Nat) (cl : Client) (h : Nat) (pin : PinHandle) (level : Bool) (v : Byte)
    (rs : List Byte) (os : List (Option TransportError)) (calls : List Call),
    Calling s S c cl (if level then .gpioSetHigh h else .gpioSetLow h) calls → cl.pin h = some pin → s.device.Quiet →
    pinValid pin.bit pin.bank = true →
    s.oracle.outcome.given = none :: none :: none :: os → s.oracle.response.given = v :: rs →
    ∃ t w, Reaches s t ∧
      (∀ i, i < 8 → w.getLsbD i = if i = pin.bit then level else v.getLsbD i) ∧
      t.session = some S ∧ t.clients = s.clients.set c (cl.after calls (.ok .unit)) ∧ t.serial = s.serial ∧
      (match pin.bank with
        | .low =>
          t.device = { s.device with latch := ⟨w, s.device.latch.high⟩, dir := ⟨0xFB, s.device.dir.high⟩ } ∧
          t.history = s.history ++
            [.send c [0x81, 0x87] none, .receive c 1 (.ok [v]), .send c [0x80, w, 0xFB] none]
        | .high =>
          t.device = { s.device with latch := ⟨s.device.latch.low, w⟩, dir := ⟨s.device.dir.low, 0xFF⟩ } ∧
          t.history = s.history ++
            [.send c [0x83, 0x87] none, .receive c 1 (.ok [v]), .send c [0x82, w, 0xFF] none])

/-- R246, R245: the lost update. Two clients hold PH0 and PH1 and call `setHigh`; both reads come first, both answered
0x00, and then the first client's write before the second's: without `GPIO_RMW_ATOMIC` the high bank ends at 0x02. -/
def Obligations.GpioLostUpdate : Prop :=
  ∀ (s : State) (S : Session), s.params.gpioRmwAtomic = false → s.session = some S → S.lock = .free → s.device.Quiet →
    s.stream = [] → s.halted = false → s.history = [] →
    s.clients = [{ Client.fresh with calls := [.gpioSetHigh 0], pins := [some ⟨.high, 0⟩] },
      { Client.fresh with calls := [.gpioSetHigh 0], pins := [some ⟨.high, 1⟩] }] →
    s.oracle.response.given = [0x00, 0x00] → s.oracle.outcome.given = List.replicate 6 none →
    ∃ picks t, Reaches { s with oracle := { s.oracle with pick := ⟨picks, 0⟩ } } t ∧ t.device.latch.high = 0x02 ∧
      t.history = [.send 0 [0x83, 0x87] none, .receive 0 1 (.ok [0x00]), .send 1 [0x83, 0x87] none,
        .receive 1 1 (.ok [0x00]), .send 0 [0x82, 0x01, 0xFF] none, .send 1 [0x82, 0x02, 0xFF] none]

/-! ### Invariants and whole-machine rules -/

/-- The state after reset meets every invariant. -/
def Obligations.ResetMeetsTheInvariants : Prop := Inv State.reset

/-- R34, R38, R139: every step keeps the deliverable marks on bytes of the queue. -/
def Obligations.StepKeepsTheQueueWellFormed : Prop :=
  ∀ s t : State, s.device.queueOk → step s = .next t → t.device.queueOk

/-- R55, R57, R189: every step keeps the lock discipline: an operation takes the lock before its first transport call or
access to `S`, does no such thing outside it, and releases it before it ends. -/
def Obligations.StepKeepsTheLockDiscipline : Prop :=
  ∀ s t : State, LockInv s → step s = .next t → LockInv t

/-- R55, R57: a transport event is made by the client that holds the lock; the one exception is `open`'s `Send`, while
there is no session. -/
def Obligations.TransportEventsNeedTheLock : Prop :=
  ∀ (s t : State) (c : Nat), LockInv s → step s = .next t →
    (∀ bs e, t.history = s.history ++ [.send c bs e] → s.holds c = true ∨ (s.session = none ∧ bs = openSeq)) ∧
    (∀ n o, t.history = s.history ++ [.receive c n o] → s.holds c = true)

/-- R24, R294: every step keeps the bus invariant: the committed speed is never `Auto`, and a bus is committed only by the
holder of the lock of a session whose bus is uncommitted. So once a bus is committed every step leaves it committed as it
is, until the session ends. -/
def Obligations.StepKeepsTheBusInvariant : Prop :=
  ∀ s t : State, BusInv s → step s = .next t →
    BusInv t ∧
    ∀ S, s.session = some S → S.busMode ≠ .uncommitted →
      t.session = none ∨ ∃ T, t.session = some T ∧ T.busMode = S.busMode

/-- R27, R111, R112: every step keeps the pin invariant: at most one live handle for a pin, and its flag false. -/
def Obligations.StepKeepsThePinInvariant : Prop :=
  ∀ s t : State, PinInv s → step s = .next t → PinInv t

/-- R112: without `PIN_RELEASE` no operation is ever left with a flag to set again, and a flag that is false stays false
until the session ends. -/
def Obligations.PinsAreNeverReleased : Prop :=
  ∀ s t : State, s.params.pinRelease = false → (∀ cl ∈ s.clients, cl.pinsReturning = []) → step s = .next t →
    (∀ cl ∈ t.clients, cl.pinsReturning = []) ∧
    ∀ (S : Session) (i : Nat), s.session = some S → S.available i = false →
      t.session = none ∨ ∃ T, t.session = some T ∧ T.available i = false

/-- R6, R7, R35, R164: no step changes the parameters or the number of clients, the history only grows at its end, and once
`D.sync` is false it stays false for the rest of the session. R32, R292: during a session no step, not even a failed
`Send`, leaves a divisor that has a number without one (log 11). -/
def Obligations.StepKeepsParametersHistorySyncAndDivisor : Prop :=
  ∀ s t : State, step s = .next t →
    t.params = s.params ∧ t.clients.length = s.clients.length ∧ (∃ es, t.history = s.history ++ es) ∧
    ∀ S, s.session = some S →
      (s.device.sync = false → t.device.sync = false) ∧ (s.device.divisor ≠ none → t.device.divisor ≠ none)

/-- R51, R139, R158: the bytes an operation sends are whole commands of R75, and they end with SEND_IMMEDIATE exactly if
they produce response bytes. -/
def Obligations.OperationsSendWholeCommands : Prop :=
  ∀ (params : Params) (cl : Client) (call : Call) (ph : Phase) (bs : List Byte) (mode : BusMode) (a : SpiSpeed)
    (c : I2cSpeed) (atomic : Bool) (bank : Bank) (bit : Nat) (level : Bool) (v : Byte),
    bs = openSeq ∨ bs = loopback level ∨ bs = i2cStop ∨
      .send ph bs ∈ planOf params cl call ∨ .send ph bs ∈ requestSpiBody mode a ∨ .send ph bs ∈ requestI2cBody mode c ∨
      .send ph bs ∈ gpioWriteBack atomic bank bit level v →
    ∃ is, (∀ i ∈ is, i.wellFormed = true) ∧ bs = is.flatMap encode ∧
      (is.getLast? = some .sendImmediate ↔ respCount is ≠ 0)
end

