-- ==== Sys2Proof/Laws/State.lean ====
section
/-! SUPPORT. One lemma per field per update of the state and of its parts, each true by `rfl`. -/

namespace Sys2Proof.Machine

/-! ### State -/

section
variable (s : State)

@[simp] theorem State.withDevice_params (d : Device) : (s.withDevice d).params = s.params := rfl
@[simp] theorem State.withDevice_session (d : Device) : (s.withDevice d).session = s.session := rfl
@[simp] theorem State.withDevice_device (d : Device) : (s.withDevice d).device = d := rfl
@[simp] theorem State.withDevice_stream (d : Device) : (s.withDevice d).stream = s.stream := rfl
@[simp] theorem State.withDevice_clients (d : Device) : (s.withDevice d).clients = s.clients := rfl
@[simp] theorem State.withDevice_history (d : Device) : (s.withDevice d).history = s.history := rfl
@[simp] theorem State.withDevice_serial (d : Device) : (s.withDevice d).serial = s.serial := rfl
@[simp] theorem State.withDevice_oracle (d : Device) : (s.withDevice d).oracle = s.oracle := rfl
@[simp] theorem State.withDevice_halted (d : Device) : (s.withDevice d).halted = s.halted := rfl

@[simp] theorem State.pushSerial_params (e : Serial) : (s.pushSerial e).params = s.params := rfl
@[simp] theorem State.pushSerial_session (e : Serial) : (s.pushSerial e).session = s.session := rfl
@[simp] theorem State.pushSerial_device (e : Serial) : (s.pushSerial e).device = s.device := rfl
@[simp] theorem State.pushSerial_stream (e : Serial) : (s.pushSerial e).stream = s.stream := rfl
@[simp] theorem State.pushSerial_clients (e : Serial) : (s.pushSerial e).clients = s.clients := rfl
@[simp] theorem State.pushSerial_history (e : Serial) : (s.pushSerial e).history = s.history := rfl
@[simp] theorem State.pushSerial_serial (e : Serial) : (s.pushSerial e).serial = s.serial ++ [e] := rfl
@[simp] theorem State.pushSerial_oracle (e : Serial) : (s.pushSerial e).oracle = s.oracle := rfl
@[simp] theorem State.pushSerial_halted (e : Serial) : (s.pushSerial e).halted = s.halted := rfl

@[simp] theorem State.pushEvent_params (e : Event) : (s.pushEvent e).params = s.params := rfl
@[simp] theorem State.pushEvent_session (e : Event) : (s.pushEvent e).session = s.session := rfl
@[simp] theorem State.pushEvent_device (e : Event) : (s.pushEvent e).device = s.device := rfl
@[simp] theorem State.pushEvent_stream (e : Event) : (s.pushEvent e).stream = s.stream := rfl
@[simp] theorem State.pushEvent_clients (e : Event) : (s.pushEvent e).clients = s.clients := rfl
@[simp] theorem State.pushEvent_history (e : Event) : (s.pushEvent e).history = s.history ++ [e] := rfl
@[simp] theorem State.pushEvent_serial (e : Event) : (s.pushEvent e).serial = s.serial := rfl
@[simp] theorem State.pushEvent_oracle (e : Event) : (s.pushEvent e).oracle = s.oracle := rfl
@[simp] theorem State.pushEvent_halted (e : Event) : (s.pushEvent e).halted = s.halted := rfl

@[simp] theorem State.withOracle_params (o : Oracle) : (s.withOracle o).params = s.params := rfl
@[simp] theorem State.withOracle_session (o : Oracle) : (s.withOracle o).session = s.session := rfl
@[simp] theorem State.withOracle_device (o : Oracle) : (s.withOracle o).device = s.device := rfl
@[simp] theorem State.withOracle_stream (o : Oracle) : (s.withOracle o).stream = s.stream := rfl
@[simp] theorem State.withOracle_clients (o : Oracle) : (s.withOracle o).clients = s.clients := rfl
@[simp] theorem State.withOracle_history (o : Oracle) : (s.withOracle o).history = s.history := rfl
@[simp] theorem State.withOracle_serial (o : Oracle) : (s.withOracle o).serial = s.serial := rfl
@[simp] theorem State.withOracle_oracle (o : Oracle) : (s.withOracle o).oracle = o := rfl
@[simp] theorem State.withOracle_halted (o : Oracle) : (s.withOracle o).halted = s.halted := rfl

@[simp] theorem State.withStream_params (bs : List Byte) : (s.withStream bs).params = s.params := rfl
@[simp] theorem State.withStream_session (bs : List Byte) : (s.withStream bs).session = s.session := rfl
@[simp] theorem State.withStream_device (bs : List Byte) : (s.withStream bs).device = s.device := rfl
@[simp] theorem State.withStream_stream (bs : List Byte) : (s.withStream bs).stream = bs := rfl
@[simp] theorem State.withStream_clients (bs : List Byte) : (s.withStream bs).clients = s.clients := rfl
@[simp] theorem State.withStream_history (bs : List Byte) : (s.withStream bs).history = s.history := rfl
@[simp] theorem State.withStream_serial (bs : List Byte) : (s.withStream bs).serial = s.serial := rfl
@[simp] theorem State.withStream_oracle (bs : List Byte) : (s.withStream bs).oracle = s.oracle := rfl
@[simp] theorem State.withStream_halted (bs : List Byte) : (s.withStream bs).halted = s.halted := rfl

@[simp] theorem State.onSession_params (f : Session → Session) : (s.onSession f).params = s.params := rfl
@[simp] theorem State.onSession_session (f : Session → Session) : (s.onSession f).session = s.session.map f := rfl
@[simp] theorem State.onSession_device (f : Session → Session) : (s.onSession f).device = s.device := rfl
@[simp] theorem State.onSession_stream (f : Session → Session) : (s.onSession f).stream = s.stream := rfl
@[simp] theorem State.onSession_clients (f : Session → Session) : (s.onSession f).clients = s.clients := rfl
@[simp] theorem State.onSession_history (f : Session → Session) : (s.onSession f).history = s.history := rfl
@[simp] theorem State.onSession_serial (f : Session → Session) : (s.onSession f).serial = s.serial := rfl
@[simp] theorem State.onSession_oracle (f : Session → Session) : (s.onSession f).oracle = s.oracle := rfl
@[simp] theorem State.onSession_halted (f : Session → Session) : (s.onSession f).halted = s.halted := rfl

@[simp] theorem State.setClient_params (c : Nat) (cl : Client) : (s.setClient c cl).params = s.params := rfl
@[simp] theorem State.setClient_session (c : Nat) (cl : Client) : (s.setClient c cl).session = s.session := rfl
@[simp] theorem State.setClient_device (c : Nat) (cl : Client) : (s.setClient c cl).device = s.device := rfl
@[simp] theorem State.setClient_stream (c : Nat) (cl : Client) : (s.setClient c cl).stream = s.stream := rfl
@[simp] theorem State.setClient_clients (c : Nat) (cl : Client) : (s.setClient c cl).clients = s.clients.set c cl := rfl
@[simp] theorem State.setClient_history (c : Nat) (cl : Client) : (s.setClient c cl).history = s.history := rfl
@[simp] theorem State.setClient_serial (c : Nat) (cl : Client) : (s.setClient c cl).serial = s.serial := rfl
@[simp] theorem State.setClient_oracle (c : Nat) (cl : Client) : (s.setClient c cl).oracle = s.oracle := rfl
@[simp] theorem State.setClient_halted (c : Nat) (cl : Client) : (s.setClient c cl).halted = s.halted := rfl

@[simp] theorem State.onClient_params (c : Nat) (f : Client → Client) : (s.onClient c f).params = s.params := rfl
@[simp] theorem State.onClient_session (c : Nat) (f : Client → Client) : (s.onClient c f).session = s.session := rfl
@[simp] theorem State.onClient_device (c : Nat) (f : Client → Client) : (s.onClient c f).device = s.device := rfl
@[simp] theorem State.onClient_stream (c : Nat) (f : Client → Client) : (s.onClient c f).stream = s.stream := rfl
@[simp] theorem State.onClient_clients (c : Nat) (f : Client → Client) : (s.onClient c f).clients = s.clients.modify c f := rfl
@[simp] theorem State.onClient_history (c : Nat) (f : Client → Client) : (s.onClient c f).history = s.history := rfl
@[simp] theorem State.onClient_serial (c : Nat) (f : Client → Client) : (s.onClient c f).serial = s.serial := rfl
@[simp] theorem State.onClient_oracle (c : Nat) (f : Client → Client) : (s.onClient c f).oracle = s.oracle := rfl
@[simp] theorem State.onClient_halted (c : Nat) (f : Client → Client) : (s.onClient c f).halted = s.halted := rfl

@[simp] theorem State.goOn_params (c : Nat) (l : List Act) : (s.goOn c l).params = s.params := rfl
@[simp] theorem State.goOn_session (c : Nat) (l : List Act) : (s.goOn c l).session = s.session := rfl
@[simp] theorem State.goOn_device (c : Nat) (l : List Act) : (s.goOn c l).device = s.device := rfl
@[simp] theorem State.goOn_stream (c : Nat) (l : List Act) : (s.goOn c l).stream = s.stream := rfl
@[simp] theorem State.goOn_clients (c : Nat) (l : List Act) : (s.goOn c l).clients = s.clients.modify c (Client.onRunning fun r => { r with todo := l }) := rfl
@[simp] theorem State.goOn_history (c : Nat) (l : List Act) : (s.goOn c l).history = s.history := rfl
@[simp] theorem State.goOn_serial (c : Nat) (l : List Act) : (s.goOn c l).serial = s.serial := rfl
@[simp] theorem State.goOn_oracle (c : Nat) (l : List Act) : (s.goOn c l).oracle = s.oracle := rfl
@[simp] theorem State.goOn_halted (c : Nat) (l : List Act) : (s.goOn c l).halted = s.halted := rfl

@[simp] theorem State.setPhase_params (c : Nat) (ph : Phase) : (s.setPhase c ph).params = s.params := rfl
@[simp] theorem State.setPhase_session (c : Nat) (ph : Phase) : (s.setPhase c ph).session = s.session := rfl
@[simp] theorem State.setPhase_device (c : Nat) (ph : Phase) : (s.setPhase c ph).device = s.device := rfl
@[simp] theorem State.setPhase_stream (c : Nat) (ph : Phase) : (s.setPhase c ph).stream = s.stream := rfl
@[simp] theorem State.setPhase_clients (c : Nat) (ph : Phase) : (s.setPhase c ph).clients = s.clients.modify c (Client.onRunning fun r => { r with phase := ph }) := rfl
@[simp] theorem State.setPhase_history (c : Nat) (ph : Phase) : (s.setPhase c ph).history = s.history := rfl
@[simp] theorem State.setPhase_serial (c : Nat) (ph : Phase) : (s.setPhase c ph).serial = s.serial := rfl
@[simp] theorem State.setPhase_oracle (c : Nat) (ph : Phase) : (s.setPhase c ph).oracle = s.oracle := rfl
@[simp] theorem State.setPhase_halted (c : Nat) (ph : Phase) : (s.setPhase c ph).halted = s.halted := rfl

@[simp] theorem State.hang_params (c : Nat) : (s.hang c).params = s.params := rfl
@[simp] theorem State.hang_session (c : Nat) : (s.hang c).session = s.session := rfl
@[simp] theorem State.hang_device (c : Nat) : (s.hang c).device = s.device := rfl
@[simp] theorem State.hang_stream (c : Nat) : (s.hang c).stream = s.stream := rfl
@[simp] theorem State.hang_clients (c : Nat) : (s.hang c).clients = s.clients.modify c (Client.onRunning fun r => { r with hung := true }) := rfl
@[simp] theorem State.hang_history (c : Nat) : (s.hang c).history = s.history := rfl
@[simp] theorem State.hang_serial (c : Nat) : (s.hang c).serial = s.serial := rfl
@[simp] theorem State.hang_oracle (c : Nat) : (s.hang c).oracle = s.oracle := rfl
@[simp] theorem State.hang_halted (c : Nat) : (s.hang c).halted = s.halted := rfl

@[simp] theorem State.appendBuf_params (c : Nat) (bs : List Byte) : (s.appendBuf c bs).params = s.params := rfl
@[simp] theorem State.appendBuf_session (c : Nat) (bs : List Byte) : (s.appendBuf c bs).session = s.session := rfl
@[simp] theorem State.appendBuf_device (c : Nat) (bs : List Byte) : (s.appendBuf c bs).device = s.device := rfl
@[simp] theorem State.appendBuf_stream (c : Nat) (bs : List Byte) : (s.appendBuf c bs).stream = s.stream := rfl
@[simp] theorem State.appendBuf_clients (c : Nat) (bs : List Byte) : (s.appendBuf c bs).clients = s.clients.modify c (Client.onRunning fun r => { r with buf := r.buf ++ bs }) := rfl
@[simp] theorem State.appendBuf_history (c : Nat) (bs : List Byte) : (s.appendBuf c bs).history = s.history := rfl
@[simp] theorem State.appendBuf_serial (c : Nat) (bs : List Byte) : (s.appendBuf c bs).serial = s.serial := rfl
@[simp] theorem State.appendBuf_oracle (c : Nat) (bs : List Byte) : (s.appendBuf c bs).oracle = s.oracle := rfl
@[simp] theorem State.appendBuf_halted (c : Nat) (bs : List Byte) : (s.appendBuf c bs).halted = s.halted := rfl

@[simp] theorem State.finish_params (c : Nat) (res : Result) : (s.finish c res).params = s.params := rfl
@[simp] theorem State.finish_session (c : Nat) (res : Result) : (s.finish c res).session = s.session.map (Session.release c) := rfl
@[simp] theorem State.finish_device (c : Nat) (res : Result) : (s.finish c res).device = s.device := rfl
@[simp] theorem State.finish_stream (c : Nat) (res : Result) : (s.finish c res).stream = s.stream := rfl
@[simp] theorem State.finish_clients (c : Nat) (res : Result) : (s.finish c res).clients = s.clients.modify c (Client.return res) := rfl
@[simp] theorem State.finish_history (c : Nat) (res : Result) : (s.finish c res).history = s.history := rfl
@[simp] theorem State.finish_serial (c : Nat) (res : Result) : (s.finish c res).serial = s.serial := rfl
@[simp] theorem State.finish_oracle (c : Nat) (res : Result) : (s.finish c res).oracle = s.oracle := rfl
@[simp] theorem State.finish_halted (c : Nat) (res : Result) : (s.finish c res).halted = s.halted := rfl

end

/-! ### Device -/

section
variable (d : Device)

@[simp] theorem Device.setBank_latch (b : Bank) (v m : Byte) : (d.setBank b v m).latch = d.latch.set b v := rfl
@[simp] theorem Device.setBank_dir (b : Bank) (v m : Byte) : (d.setBank b v m).dir = d.dir.set b m := rfl
@[simp] theorem Device.setBank_loopback (b : Bank) (v m : Byte) : (d.setBank b v m).loopback = d.loopback := rfl
@[simp] theorem Device.setBank_divisor (b : Bank) (v m : Byte) : (d.setBank b v m).divisor = d.divisor := rfl
@[simp] theorem Device.setBank_div5 (b : Bank) (v m : Byte) : (d.setBank b v m).div5 = d.div5 := rfl
@[simp] theorem Device.setBank_threePhase (b : Bank) (v m : Byte) : (d.setBank b v m).threePhase = d.threePhase := rfl
@[simp] theorem Device.setBank_adaptive (b : Bank) (v m : Byte) : (d.setBank b v m).adaptive = d.adaptive := rfl
@[simp] theorem Device.setBank_rx (b : Bank) (v m : Byte) : (d.setBank b v m).rx = d.rx := rfl
@[simp] theorem Device.setBank_flushed (b : Bank) (v m : Byte) : (d.setBank b v m).flushed = d.flushed := rfl
@[simp] theorem Device.setBank_sync (b : Bank) (v m : Byte) : (d.setBank b v m).sync = d.sync := rfl

@[simp] theorem Device.setLoopback_latch (v : Bool) : (d.setLoopback v).latch = d.latch := rfl
@[simp] theorem Device.setLoopback_dir (v : Bool) : (d.setLoopback v).dir = d.dir := rfl
@[simp] theorem Device.setLoopback_loopback (v : Bool) : (d.setLoopback v).loopback = v := rfl
@[simp] theorem Device.setLoopback_divisor (v : Bool) : (d.setLoopback v).divisor = d.divisor := rfl
@[simp] theorem Device.setLoopback_div5 (v : Bool) : (d.setLoopback v).div5 = d.div5 := rfl
@[simp] theorem Device.setLoopback_threePhase (v : Bool) : (d.setLoopback v).threePhase = d.threePhase := rfl
@[simp] theorem Device.setLoopback_adaptive (v : Bool) : (d.setLoopback v).adaptive = d.adaptive := rfl
@[simp] theorem Device.setLoopback_rx (v : Bool) : (d.setLoopback v).rx = d.rx := rfl
@[simp] theorem Device.setLoopback_flushed (v : Bool) : (d.setLoopback v).flushed = d.flushed := rfl
@[simp] theorem Device.setLoopback_sync (v : Bool) : (d.setLoopback v).sync = d.sync := rfl

@[simp] theorem Device.setDivisor_latch (v : Half) : (d.setDivisor v).latch = d.latch := rfl
@[simp] theorem Device.setDivisor_dir (v : Half) : (d.setDivisor v).dir = d.dir := rfl
@[simp] theorem Device.setDivisor_loopback (v : Half) : (d.setDivisor v).loopback = d.loopback := rfl
@[simp] theorem Device.setDivisor_divisor (v : Half) : (d.setDivisor v).divisor = some v := rfl
@[simp] theorem Device.setDivisor_div5 (v : Half) : (d.setDivisor v).div5 = d.div5 := rfl
@[simp] theorem Device.setDivisor_threePhase (v : Half) : (d.setDivisor v).threePhase = d.threePhase := rfl
@[simp] theorem Device.setDivisor_adaptive (v : Half) : (d.setDivisor v).adaptive = d.adaptive := rfl
@[simp] theorem Device.setDivisor_rx (v : Half) : (d.setDivisor v).rx = d.rx := rfl
@[simp] theorem Device.setDivisor_flushed (v : Half) : (d.setDivisor v).flushed = d.flushed := rfl
@[simp] theorem Device.setDivisor_sync (v : Half) : (d.setDivisor v).sync = d.sync := rfl

@[simp] theorem Device.setDiv5_latch (v : Bool) : (d.setDiv5 v).latch = d.latch := rfl
@[simp] theorem Device.setDiv5_dir (v : Bool) : (d.setDiv5 v).dir = d.dir := rfl
@[simp] theorem Device.setDiv5_loopback (v : Bool) : (d.setDiv5 v).loopback = d.loopback := rfl
@[simp] theorem Device.setDiv5_divisor (v : Bool) : (d.setDiv5 v).divisor = d.divisor := rfl
@[simp] theorem Device.setDiv5_div5 (v : Bool) : (d.setDiv5 v).div5 = v := rfl
@[simp] theorem Device.setDiv5_threePhase (v : Bool) : (d.setDiv5 v).threePhase = d.threePhase := rfl
@[simp] theorem Device.setDiv5_adaptive (v : Bool) : (d.setDiv5 v).adaptive = d.adaptive := rfl
@[simp] theorem Device.setDiv5_rx (v : Bool) : (d.setDiv5 v).rx = d.rx := rfl
@[simp] theorem Device.setDiv5_flushed (v : Bool) : (d.setDiv5 v).flushed = d.flushed := rfl
@[simp] theorem Device.setDiv5_sync (v : Bool) : (d.setDiv5 v).sync = d.sync := rfl

@[simp] theorem Device.setThreePhase_latch (v : Bool) : (d.setThreePhase v).latch = d.latch := rfl
@[simp] theorem Device.setThreePhase_dir (v : Bool) : (d.setThreePhase v).dir = d.dir := rfl
@[simp] theorem Device.setThreePhase_loopback (v : Bool) : (d.setThreePhase v).loopback = d.loopback := rfl
@[simp] theorem Device.setThreePhase_divisor (v : Bool) : (d.setThreePhase v).divisor = d.divisor := rfl
@[simp] theorem Device.setThreePhase_div5 (v : Bool) : (d.setThreePhase v).div5 = d.div5 := rfl
@[simp] theorem Device.setThreePhase_threePhase (v : Bool) : (d.setThreePhase v).threePhase = v := rfl
@[simp] theorem Device.setThreePhase_adaptive (v : Bool) : (d.setThreePhase v).adaptive = d.adaptive := rfl
@[simp] theorem Device.setThreePhase_rx (v : Bool) : (d.setThreePhase v).rx = d.rx := rfl
@[simp] theorem Device.setThreePhase_flushed (v : Bool) : (d.setThreePhase v).flushed = d.flushed := rfl
@[simp] theorem Device.setThreePhase_sync (v : Bool) : (d.setThreePhase v).sync = d.sync := rfl

@[simp] theorem Device.setAdaptive_latch (v : Bool) : (d.setAdaptive v).latch = d.latch := rfl
@[simp] theorem Device.setAdaptive_dir (v : Bool) : (d.setAdaptive v).dir = d.dir := rfl
@[simp] theorem Device.setAdaptive_loopback (v : Bool) : (d.setAdaptive v).loopback = d.loopback := rfl
@[simp] theorem Device.setAdaptive_divisor (v : Bool) : (d.setAdaptive v).divisor = d.divisor := rfl
@[simp] theorem Device.setAdaptive_div5 (v : Bool) : (d.setAdaptive v).div5 = d.div5 := rfl
@[simp] theorem Device.setAdaptive_threePhase (v : Bool) : (d.setAdaptive v).threePhase = d.threePhase := rfl
@[simp] theorem Device.setAdaptive_adaptive (v : Bool) : (d.setAdaptive v).adaptive = v := rfl
@[simp] theorem Device.setAdaptive_rx (v : Bool) : (d.setAdaptive v).rx = d.rx := rfl
@[simp] theorem Device.setAdaptive_flushed (v : Bool) : (d.setAdaptive v).flushed = d.flushed := rfl
@[simp] theorem Device.setAdaptive_sync (v : Bool) : (d.setAdaptive v).sync = d.sync := rfl

@[simp] theorem Device.respond_latch (bs : List Byte) : (d.respond bs).latch = d.latch := rfl
@[simp] theorem Device.respond_dir (bs : List Byte) : (d.respond bs).dir = d.dir := rfl
@[simp] theorem Device.respond_loopback (bs : List Byte) : (d.respond bs).loopback = d.loopback := rfl
@[simp] theorem Device.respond_divisor (bs : List Byte) : (d.respond bs).divisor = d.divisor := rfl
@[simp] theorem Device.respond_div5 (bs : List Byte) : (d.respond bs).div5 = d.div5 := rfl
@[simp] theorem Device.respond_threePhase (bs : List Byte) : (d.respond bs).threePhase = d.threePhase := rfl
@[simp] theorem Device.respond_adaptive (bs : List Byte) : (d.respond bs).adaptive = d.adaptive := rfl
@[simp] theorem Device.respond_rx (bs : List Byte) : (d.respond bs).rx = d.rx ++ bs := rfl
@[simp] theorem Device.respond_flushed (bs : List Byte) : (d.respond bs).flushed = d.flushed := rfl
@[simp] theorem Device.respond_sync (bs : List Byte) : (d.respond bs).sync = d.sync := rfl

@[simp] theorem Device.flush_latch : d.flush.latch = d.latch := rfl
@[simp] theorem Device.flush_dir : d.flush.dir = d.dir := rfl
@[simp] theorem Device.flush_loopback : d.flush.loopback = d.loopback := rfl
@[simp] theorem Device.flush_divisor : d.flush.divisor = d.divisor := rfl
@[simp] theorem Device.flush_div5 : d.flush.div5 = d.div5 := rfl
@[simp] theorem Device.flush_threePhase : d.flush.threePhase = d.threePhase := rfl
@[simp] theorem Device.flush_adaptive : d.flush.adaptive = d.adaptive := rfl
@[simp] theorem Device.flush_rx : d.flush.rx = d.rx := rfl
@[simp] theorem Device.flush_flushed : d.flush.flushed = d.rx.length := rfl
@[simp] theorem Device.flush_sync : d.flush.sync = d.sync := rfl

@[simp] theorem Device.dropRx_latch (n : Nat) : (d.dropRx n).latch = d.latch := rfl
@[simp] theorem Device.dropRx_dir (n : Nat) : (d.dropRx n).dir = d.dir := rfl
@[simp] theorem Device.dropRx_loopback (n : Nat) : (d.dropRx n).loopback = d.loopback := rfl
@[simp] theorem Device.dropRx_divisor (n : Nat) : (d.dropRx n).divisor = d.divisor := rfl
@[simp] theorem Device.dropRx_div5 (n : Nat) : (d.dropRx n).div5 = d.div5 := rfl
@[simp] theorem Device.dropRx_threePhase (n : Nat) : (d.dropRx n).threePhase = d.threePhase := rfl
@[simp] theorem Device.dropRx_adaptive (n : Nat) : (d.dropRx n).adaptive = d.adaptive := rfl
@[simp] theorem Device.dropRx_rx (n : Nat) : (d.dropRx n).rx = d.rx.drop n := rfl
@[simp] theorem Device.dropRx_flushed (n : Nat) : (d.dropRx n).flushed = d.flushed - n := rfl
@[simp] theorem Device.dropRx_sync (n : Nat) : (d.dropRx n).sync = d.sync := rfl

@[simp] theorem Device.desync_latch : d.desync.latch = d.latch := rfl
@[simp] theorem Device.desync_dir : d.desync.dir = d.dir := rfl
@[simp] theorem Device.desync_loopback : d.desync.loopback = d.loopback := rfl
@[simp] theorem Device.desync_divisor : d.desync.divisor = d.divisor := rfl
@[simp] theorem Device.desync_div5 : d.desync.div5 = d.div5 := rfl
@[simp] theorem Device.desync_threePhase : d.desync.threePhase = d.threePhase := rfl
@[simp] theorem Device.desync_adaptive : d.desync.adaptive = d.adaptive := rfl
@[simp] theorem Device.desync_rx : d.desync.rx = d.rx := rfl
@[simp] theorem Device.desync_flushed : d.desync.flushed = d.flushed := rfl
@[simp] theorem Device.desync_sync : d.desync.sync = false := rfl

end

/-! ### Client -/

section
variable (cl : Client)

@[simp] theorem Client.onRunning_calls (f : Running → Running) : (cl.onRunning f).calls = cl.calls := rfl
@[simp] theorem Client.onRunning_running (f : Running → Running) : (cl.onRunning f).running = cl.running.map f := rfl
@[simp] theorem Client.onRunning_spi (f : Running → Running) : (cl.onRunning f).spi = cl.spi := rfl
@[simp] theorem Client.onRunning_i2c (f : Running → Running) : (cl.onRunning f).i2c = cl.i2c := rfl
@[simp] theorem Client.onRunning_pins (f : Running → Running) : (cl.onRunning f).pins = cl.pins := rfl
@[simp] theorem Client.onRunning_results (f : Running → Running) : (cl.onRunning f).results = cl.results := rfl

@[simp] theorem Client.return_calls (res : Result) : (cl.return res).calls = cl.calls := rfl
@[simp] theorem Client.return_running (res : Result) : (cl.return res).running = none := rfl
@[simp] theorem Client.return_spi (res : Result) : (cl.return res).spi = cl.spi := rfl
@[simp] theorem Client.return_i2c (res : Result) : (cl.return res).i2c = cl.i2c := rfl
@[simp] theorem Client.return_pins (res : Result) : (cl.return res).pins = cl.pins := rfl
@[simp] theorem Client.return_results (res : Result) : (cl.return res).results = cl.results ++ [res] := rfl

@[simp] theorem Client.withoutHandles_calls : cl.withoutHandles.calls = cl.calls := rfl
@[simp] theorem Client.withoutHandles_running : cl.withoutHandles.running = cl.running := rfl
@[simp] theorem Client.withoutHandles_spi : cl.withoutHandles.spi = [] := rfl
@[simp] theorem Client.withoutHandles_i2c : cl.withoutHandles.i2c = [] := rfl
@[simp] theorem Client.withoutHandles_pins : cl.withoutHandles.pins = [] := rfl
@[simp] theorem Client.withoutHandles_results : cl.withoutHandles.results = cl.results := rfl

end

/-! ### Session -/

section
variable (S : Session)

@[simp] theorem Session.setLock_loopback (l : Lock) : (S.setLock l).loopback = S.loopback := rfl
@[simp] theorem Session.setLock_busMode (l : Lock) : (S.setLock l).busMode = S.busMode := rfl
@[simp] theorem Session.setLock_pinAvailable (l : Lock) : (S.setLock l).pinAvailable = S.pinAvailable := rfl
@[simp] theorem Session.setLock_lock (l : Lock) : (S.setLock l).lock = l := rfl

@[simp] theorem Session.setLoopback_loopback (v : Bool) : (S.setLoopback v).loopback = v := rfl
@[simp] theorem Session.setLoopback_busMode (v : Bool) : (S.setLoopback v).busMode = S.busMode := rfl
@[simp] theorem Session.setLoopback_pinAvailable (v : Bool) : (S.setLoopback v).pinAvailable = S.pinAvailable := rfl
@[simp] theorem Session.setLoopback_lock (v : Bool) : (S.setLoopback v).lock = S.lock := rfl

@[simp] theorem Session.setBusMode_loopback (b : BusMode) : (S.setBusMode b).loopback = S.loopback := rfl
@[simp] theorem Session.setBusMode_busMode (b : BusMode) : (S.setBusMode b).busMode = b := rfl
@[simp] theorem Session.setBusMode_pinAvailable (b : BusMode) : (S.setBusMode b).pinAvailable = S.pinAvailable := rfl
@[simp] theorem Session.setBusMode_lock (b : BusMode) : (S.setBusMode b).lock = S.lock := rfl

@[simp] theorem Session.setAvailable_loopback (i : Nat) (v : Bool) : (S.setAvailable i v).loopback = S.loopback := rfl
@[simp] theorem Session.setAvailable_busMode (i : Nat) (v : Bool) : (S.setAvailable i v).busMode = S.busMode := rfl
@[simp] theorem Session.setAvailable_pinAvailable (i : Nat) (v : Bool) : (S.setAvailable i v).pinAvailable = S.pinAvailable.setIfInBounds i v := rfl
@[simp] theorem Session.setAvailable_lock (i : Nat) (v : Bool) : (S.setAvailable i v).lock = S.lock := rfl

end

end Sys2Proof.Machine
end

