-- ==== Sys2Proof/Laws/Ops.lean ====
section
/-! SUPPORT. What the shared operations can do, said once for each: banks, free values, the clock operations, the queue,
the session and the end of an operation. -/

namespace Sys2Proof.Machine

/-! ### Banks -/

@[simp] theorem PerBank.get_set_same {α : Type} (v : PerBank α) (b : Bank) (x : α) : (v.set b x).get b = x := by
  cases b <;> rfl

theorem PerBank.get_set_other {α : Type} (v : PerBank α) {b b' : Bank} (x : α) (h : b' ≠ b) :
    (v.set b x).get b' = v.get b' := by
  cases b <;> cases b' <;> first | rfl | exact absurd rfl h

/-- Writing a bank twice with the same bytes is writing it once (20_memory.md R63). -/
theorem Device.setBank_idem (d : Device) (b : Bank) (v m : Byte) :
    (d.setBank b v m).setBank b v m = d.setBank b v m := by
  cases b <;> rfl

/-! ### Free values -/

@[simp] theorem Feed.nexts_length {α : Type} (g : Nat → α) (n : Nat) (f : Feed α) : (f.nexts g n).1.length = n := by
  induction n generalizing f with
  | zero => rfl
  | succ n ih => simp [Feed.nexts, ih]

/-- Enough given answers are the answers (log 33). -/
theorem Feed.nexts_given {α : Type} (g : Nat → α) (as rest : List α) (k : Nat) :
    Feed.nexts g as.length ⟨as ++ rest, k⟩ = (as, ⟨rest, k⟩) := by
  induction as with
  | nil => rfl
  | cons a as ih => simp [Feed.nexts, Feed.next, ih]

@[simp] theorem State.drawBytes_length (s : State) (n : Nat) : (s.drawBytes n).1.length = n := Feed.nexts_length _ _ _

/-- A draw of response bytes changes the sources of free values and nothing else. -/
theorem State.drawBytes_state (s : State) (n : Nat) :
    (s.drawBytes n).2 = s.withOracle { s.oracle with response := (s.oracle.response.nexts Config.responseByte n).2 } := rfl

@[simp] theorem State.drawBytes_device (s : State) (n : Nat) : (s.drawBytes n).2.device = s.device := rfl
@[simp] theorem State.drawBytes_session (s : State) (n : Nat) : (s.drawBytes n).2.session = s.session := rfl
@[simp] theorem State.drawBytes_clients (s : State) (n : Nat) : (s.drawBytes n).2.clients = s.clients := rfl
@[simp] theorem State.drawBytes_params (s : State) (n : Nat) : (s.drawBytes n).2.params = s.params := rfl
@[simp] theorem State.drawBytes_stream (s : State) (n : Nat) : (s.drawBytes n).2.stream = s.stream := rfl
@[simp] theorem State.drawBytes_history (s : State) (n : Nat) : (s.drawBytes n).2.history = s.history := rfl
@[simp] theorem State.drawBytes_serial (s : State) (n : Nat) : (s.drawBytes n).2.serial = s.serial := rfl
@[simp] theorem State.drawBytes_halted (s : State) (n : Nat) : (s.drawBytes n).2.halted = s.halted := rfl

/-- A draw of an outcome changes the sources of free values and nothing else. -/
theorem State.drawOutcome_state (s : State) :
    s.drawOutcome.2 = s.withOracle { s.oracle with outcome := (s.oracle.outcome.next Config.transportOutcome).2 } := rfl

/-- A draw of a completion changes the sources of free values and nothing else. -/
theorem State.drawCompletes_state (s : State) :
    s.drawCompletes.2 =
      s.withOracle { s.oracle with completes := (s.oracle.completes.next Config.receiveCompletes).2 } := rfl

/-- A failed `Receive` loses at most what it asked for (41_command_encoder.md R164). -/
theorem State.drawLost_le (s : State) (n : Nat) : (s.drawLost n).1 ≤ n := Nat.min_le_right _ _

/-- A draw of a loss changes the sources of free values and nothing else. -/
theorem State.drawLost_state (s : State) (n : Nat) :
    (s.drawLost n).2 = s.withOracle { s.oracle with lost := (s.oracle.lost.next Config.bytesLost).2 } := rfl

/-- A draw of a client changes the sources of free values and nothing else. -/
theorem State.drawPick_state (s : State) :
    s.drawPick.2 = s.withOracle { s.oracle with pick := (s.oracle.pick.next Config.clientPicked).2 } := rfl

/-! ### Full duplex (R159, R160) -/

theorem State.duplexResponse_loopback (s : State) (p : List Byte) (hl : s.device.loopback = true)
    (hs : s.device.sync = true) : s.duplexResponse p = (p, s) := by
  simp [State.duplexResponse, hl, hs]

theorem State.duplexResponse_free (s : State) (p : List Byte) (h : (s.device.loopback && s.device.sync) = false) :
    s.duplexResponse p = s.drawBytes p.length := by
  simp [State.duplexResponse, h]

/-- Whatever a full-duplex command answers, it is as long as the payload and only the free values have moved. -/
theorem State.duplexResponse_cases (s : State) (p : List Byte) :
    (s.duplexResponse p).1.length = p.length ∧ ∃ o, (s.duplexResponse p).2 = s.withOracle o := by
  unfold State.duplexResponse
  split
  · exact ⟨rfl, s.oracle, rfl⟩
  · exact ⟨s.drawBytes_length _, _, s.drawBytes_state _⟩

/-- A full-duplex command changes the response queue, the record of the data lines and the free values. -/
theorem State.clockDuplex_cases (s : State) (e : Edge) (p : List Byte) :
    ∃ bs o, bs.length = p.length ∧ s.clockDuplex e p =
      ((s.withOracle o).withDevice (s.device.respond bs)).pushSerial
        { driven := some (e, payloadBits p), sampled := some (otherEdge e, payloadBits bs) } := by
  obtain ⟨hl, o, ho⟩ := s.duplexResponse_cases p
  refine ⟨(s.duplexResponse p).1, o, hl, ?_⟩
  unfold State.clockDuplex
  dsimp only
  rw [ho]
  rfl

/-! ### The response queue -/

theorem Device.queueOk_respond {d : Device} (bs : List Byte) (h : d.queueOk) : (d.respond bs).queueOk := by
  simp only [Device.queueOk, Device.respond_flushed, Device.respond_rx, List.length_append] at *
  omega

theorem Device.queueOk_flush (d : Device) : d.flush.queueOk := Nat.le_refl _

theorem Device.queueOk_dropRx {d : Device} (n : Nat) (h : d.queueOk) : (d.dropRx n).queueOk := by
  simp only [Device.queueOk, Device.dropRx_flushed, Device.dropRx_rx, List.length_drop] at *
  omega

theorem Device.queueOk_unspecified (k : Nat) : (Device.unspecified k).queueOk := Nat.min_le_right _ _

/-- An update of any other field keeps the queue well formed. -/
theorem Device.queueOk_congr {d d' : Device} (hr : d'.rx = d.rx) (hf : d'.flushed = d.flushed) (h : d.queueOk) :
    d'.queueOk := by
  simpa [Device.queueOk, hr, hf] using h

/-! ### The lock -/

/-- Release frees the lock of its holder and no other's. -/
theorem Session.release_lock (S : Session) (c : Nat) :
    (S.release c).lock = if S.lock = .held c then .free else S.lock := by
  unfold Session.release
  split <;> simp_all

@[simp] theorem Session.release_busMode (S : Session) (c : Nat) : (S.release c).busMode = S.busMode := by
  unfold Session.release; split <;> rfl

@[simp] theorem Session.release_loopback (S : Session) (c : Nat) : (S.release c).loopback = S.loopback := by
  unfold Session.release; split <;> rfl

@[simp] theorem Session.release_pinAvailable (S : Session) (c : Nat) : (S.release c).pinAvailable = S.pinAvailable := by
  unfold Session.release; split <;> rfl

/-- Who holds the lock, as a proposition. -/
theorem State.holds_iff (s : State) (c : Nat) : s.holds c = true ↔ ∃ S, s.session = some S ∧ S.lock = .held c := by
  unfold State.holds
  cases s.session with
  | none => simp
  | some S => simp

/-- At most one client holds the lock. -/
theorem State.holds_unique {s : State} {c c' : Nat} (h : s.holds c = true) (h' : s.holds c' = true) : c = c' := by
  rw [State.holds_iff] at h h'
  obtain ⟨S, hS, hl⟩ := h
  obtain ⟨S', hS', hl'⟩ := h'
  rw [hS] at hS'
  cases hS'
  rw [hl] at hl'
  cases hl'
  rfl

theorem State.lockFree_iff (s : State) : s.lockFree = true ↔ ∃ S, s.session = some S ∧ S.lock = .free := by
  unfold State.lockFree
  cases s.session with
  | none => simp
  | some S => simp

/-! ### Pins -/

/-- A flag reads as what was last written to it, if there is such a flag. -/
theorem Session.available_setAvailable (S : Session) (i j : Nat) (v : Bool) :
    (S.setAvailable i v).available j = if i = j ∧ j < 12 then v else S.available j := by
  unfold Session.available Session.setAvailable
  by_cases hj : j < 12
  · by_cases hij : i = j
    · subst hij; simp [hj]
    · simp [hj, hij]
  · simp [hj]

@[simp] theorem Session.release_available (S : Session) (c i : Nat) : (S.release c).available i = S.available i := by
  simp [Session.available]

/-! ### The end of an operation (60_exceptions.md R261) -/

/-- `return v` and `raise e` are the same end with another result. -/
theorem State.returnOk_eq (s : State) (c : Nat) (v : Value) : s.returnOk c v = s.finish c (.ok v) := rfl

theorem State.raise_eq (s : State) (c : Nat) (e : Error) : s.raise c e = s.finish c (.err e) := rfl

/-- After its operation a client does not hold the lock. -/
theorem State.finish_not_holds (s : State) (c : Nat) (res : Result) : (s.finish c res).holds c = false := by
  unfold State.holds
  simp only [State.finish_session]
  cases s.session with
  | none => rfl
  | some S =>
    simp only [Option.map_some, Session.release_lock]
    split <;> simp_all

end Sys2Proof.Machine
end

