-- ==== Sys2Proof/Laws/Transport.lean ====
section
/-! SUPPORT. What `Send` and `Receive` can do (00_scope.md R4), and what they leave alone. -/

namespace Sys2Proof.Machine

/-- The outcome source after one draw. -/
def Oracle.afterOutcome (o : Oracle) : Oracle :=
  { o with outcome := (o.outcome.next Config.transportOutcome).2 }

/-- Everything a `Send` can do (20_memory.md R51, 41_command_encoder.md R163). -/
theorem State.send_cases (s : State) (c : Nat) (bs : List Byte) :
    (s.drawOutcome.1 = none ∧
      s.send c bs = (none, ((s.withOracle s.oracle.afterOutcome).withStream (s.stream ++ bs)).pushEvent (.send c bs none))) ∨
    (∃ e, s.drawOutcome.1 = some e ∧
      s.send c bs = (some e, ((s.withOracle { s.oracle.afterOutcome with unspecified := s.oracle.unspecified + 1 }).withDevice
        (Device.unspecified s.oracle.unspecified)).pushEvent (.send c bs (some e)))) := by
  unfold State.send
  dsimp only
  split
  · rename_i h
    exact .inl ⟨h, rfl⟩
  · rename_i e h
    exact .inr ⟨e, h, rfl⟩

/-- What a `Send` leaves alone, whatever its outcome. -/
theorem State.send_frame (s : State) (c : Nat) (bs : List Byte) :
    (s.send c bs).2.session = s.session ∧ (s.send c bs).2.clients = s.clients ∧ (s.send c bs).2.params = s.params ∧
      (s.send c bs).2.serial = s.serial ∧ (s.send c bs).2.halted = s.halted ∧
      (s.send c bs).2.history = s.history ++ [.send c bs (s.send c bs).1] := by
  rcases s.send_cases c bs with ⟨_, h⟩ | ⟨e, _, h⟩ <;> rw [h] <;> exact ⟨rfl, rfl, rfl, rfl, rfl, rfl⟩

/-- A `Send` never sets `D.sync` (R164). -/
theorem State.send_sync (s : State) (c : Nat) (bs : List Byte) (h : s.device.sync = false) :
    (s.send c bs).2.device.sync = false := by
  rcases s.send_cases c bs with ⟨_, e⟩ | ⟨_, _, e⟩ <;> rw [e]
  · exact h
  · rfl

/-- A `Send` keeps the queue well formed. -/
theorem State.send_queueOk (s : State) (c : Nat) (bs : List Byte) (h : s.device.queueOk) :
    (s.send c bs).2.device.queueOk := by
  rcases s.send_cases c bs with ⟨_, e⟩ | ⟨_, _, e⟩ <;> rw [e]
  · exact h
  · exact Device.queueOk_unspecified _

/-- Everything a `Receive` can do, with the state's other parts: it completes with `n` bytes taken off the queue, fails
with at most `n` bytes lost, or hangs with the device as it was. Only the free values move beside that (R52, R161,
R164). -/
theorem State.receive_cases (s : State) (c n : Nat) :
    (∃ bs o, s.receive c n =
        (.bytes bs, ((s.withOracle o).withDevice (s.device.dropRx n)).pushEvent (.receive c n (.ok bs))) ∧
        (s.device.sync = true → bs = s.device.rx.take n ∧ n ≤ s.device.rx.length) ∧ bs.length = n) ∨
    (∃ e o k, k ≤ n ∧ s.receive c n =
        (.failed e, ((s.withOracle o).withDevice (s.device.dropRx k).desync).pushEvent (.receive c n (.err e)))) ∨
    (∃ o, s.receive c n = (.hangs, s.withOracle o)) := by
  unfold State.receive
  dsimp only
  split
  · exact .inr (.inl ⟨_, _, _, s.drawOutcome.2.drawLost_le n, rfl⟩)
  · unfold State.receiveOk
    dsimp only
    split
    · split
      · rename_i hn
        refine .inl ⟨_, _, rfl, fun _ => ⟨rfl, hn.2⟩, ?_⟩
        rw [List.length_take]
        exact Nat.min_eq_left hn.2
      · split
        · rename_i hn
          split
          · refine .inl ⟨_, _, rfl, fun _ => ⟨rfl, hn⟩, ?_⟩
            rw [List.length_take]
            exact Nat.min_eq_left hn
          · exact .inr (.inr ⟨_, rfl⟩)
        · exact .inr (.inr ⟨_, rfl⟩)
    · rename_i hs
      split
      · exact .inl ⟨_, _, rfl, fun h => absurd h hs, State.drawBytes_length _ _⟩
      · exact .inr (.inr ⟨_, rfl⟩)

/-- What a `Receive` leaves alone, whatever becomes of it. -/
theorem State.receive_frame (s : State) (c n : Nat) :
    (s.receive c n).2.session = s.session ∧ (s.receive c n).2.clients = s.clients ∧
      (s.receive c n).2.params = s.params ∧ (s.receive c n).2.serial = s.serial ∧
      (s.receive c n).2.halted = s.halted ∧ (s.receive c n).2.stream = s.stream := by
  rcases s.receive_cases c n with ⟨_, _, h, _⟩ | ⟨_, _, _, _, h⟩ | ⟨_, h⟩ <;> rw [h] <;> exact ⟨rfl, rfl, rfl, rfl, rfl, rfl⟩

/-- A `Receive` never sets `D.sync` (R164). -/
theorem State.receive_sync (s : State) (c n : Nat) (h : s.device.sync = false) :
    (s.receive c n).2.device.sync = false := by
  rcases s.receive_cases c n with ⟨_, _, e, _⟩ | ⟨_, _, _, _, e⟩ | ⟨_, e⟩ <;> rw [e]
  · exact h
  · rfl
  · exact h

/-- A `Receive` keeps the queue well formed. -/
theorem State.receive_queueOk (s : State) (c n : Nat) (h : s.device.queueOk) : (s.receive c n).2.device.queueOk := by
  rcases s.receive_cases c n with ⟨_, _, e, _⟩ | ⟨_, _, k, _, e⟩ | ⟨_, e⟩ <;> rw [e]
  · exact Device.queueOk_dropRx n h
  · exact Device.queueOk_congr rfl rfl (Device.queueOk_dropRx k h)
  · exact h

end Sys2Proof.Machine
end

