-- ==== Sys2Proof/Laws/Step.lean ====
section
/-! SUPPORT. What a step can do: the chip's part, the choice of a client, and that client's part. -/

namespace Sys2Proof.Machine

/-! ### The chip's part -/

/-- Every command answers a next state (no meaning stops). -/
theorem exec_next (i : Instr) (s : State) : ∃ t, exec i s = .next t := by
  cases i <;> exact ⟨_, rfl⟩

/-- What a command can do to the parts of the state: it changes the device, the record of the data lines and the free
values, and nothing else. -/
theorem exec_parts (i : Instr) (s : State) :
    ∃ d o e, exec i s = .next { s with device := d, oracle := o, serial := s.serial ++ e } := by
  cases i with
  | msbBytesInoutWfRr p =>
    obtain ⟨_, o, _, h⟩ := s.clockDuplex_cases .falling p
    exact ⟨_, o, [_], congrArg Host.Outcome.next h⟩
  | msbBytesInoutWrRf p =>
    obtain ⟨_, o, _, h⟩ := s.clockDuplex_cases .rising p
    exact ⟨_, o, [_], congrArg Host.Outcome.next h⟩
  | msbBytesOutRising p => exact ⟨_, _, [_], rfl⟩
  | msbBytesOutFalling p => exact ⟨_, _, [_], rfl⟩
  | msbBitsOutRising k x => exact ⟨_, _, [_], rfl⟩
  | msbBitsOutFalling k x => exact ⟨_, _, [_], rfl⟩
  | msbBytesInRising n => exact ⟨_, _, [_], rfl⟩
  | msbBytesInFalling n => exact ⟨_, _, [_], rfl⟩
  | msbBitsInRising k => exact ⟨_, _, [_], rfl⟩
  | msbBitsInFalling k => exact ⟨_, _, [_], rfl⟩
  | getBitsLow => exact ⟨_, _, [], by simp [exec, execGetBitsLow, State.getBank]; rfl⟩
  | getBitsHigh => exact ⟨_, _, [], by simp [exec, execGetBitsHigh, State.getBank]; rfl⟩
  | setBitsLow v m => exact ⟨_, _, [], by simp [exec, execSetBitsLow, State.setBank]; rfl⟩
  | setBitsHigh v m => exact ⟨_, _, [], by simp [exec, execSetBitsHigh, State.setBank]; rfl⟩
  | loopbackEnable => exact ⟨_, _, [], by simp [exec, execLoopbackEnable]; rfl⟩
  | loopbackDisable => exact ⟨_, _, [], by simp [exec, execLoopbackDisable]; rfl⟩
  | setClockDivisor d => exact ⟨_, _, [], by simp [exec, execSetClockDivisor]; rfl⟩
  | sendImmediate => exact ⟨_, _, [], by simp [exec, execSendImmediate]; rfl⟩
  | disableDiv5 => exact ⟨_, _, [], by simp [exec, execDisableDiv5]; rfl⟩
  | enableDiv5 => exact ⟨_, _, [], by simp [exec, execEnableDiv5]; rfl⟩
  | enable3Phase => exact ⟨_, _, [], by simp [exec, execEnable3Phase]; rfl⟩
  | disable3Phase => exact ⟨_, _, [], by simp [exec, execDisable3Phase]; rfl⟩
  | enableAdaptive => exact ⟨_, _, [], by simp [exec, execEnableAdaptive]; rfl⟩
  | disableAdaptive => exact ⟨_, _, [], by simp [exec, execDisableAdaptive]; rfl⟩

theorem State.fetch_command {s : State} {i : Instr} {rest : List Byte} (h : decode s.stream = .command i rest) :
    s.fetch = .command i rest := by
  simp [State.fetch, h]

theorem State.fetch_nothing {s : State} (h : decode s.stream = .truncated) : s.fetch = .nothing := by
  simp [State.fetch, h]

/-- With an empty command stream the clients move. -/
theorem step_empty {s : State} (h : s.stream = []) : step s = s.agentStep := by
  simp [step, State.fetch, h, decode]

/-! ### The choice of a client -/

/-- A client that has a step, by number. -/
theorem State.mem_ready {s : State} {c : Nat} :
    c ∈ s.ready ↔ ∃ cl, s.clients[c]? = some cl ∧ s.clientHasStep cl = true := by
  unfold State.ready
  simp only [List.mem_filter, List.mem_range]
  constructor
  · rintro ⟨hc, h⟩
    rw [List.getElem?_eq_getElem hc] at h
    exact ⟨_, List.getElem?_eq_getElem hc, by simpa using h⟩
  · rintro ⟨cl, hcl, h⟩
    obtain ⟨hc, _⟩ := List.getElem?_eq_some_iff.1 hcl
    exact ⟨hc, by simp [hcl, h]⟩

theorem List.getD_mod_mem {α : Type} (l : List α) (d : α) (n : Nat) (h : l ≠ []) : l.getD (n % l.length) d ∈ l := by
  have hl : n % l.length < l.length := Nat.mod_lt _ (List.length_pos_of_ne_nil h)
  rw [List.getD_eq_getElem _ _ hl]
  exact List.getElem_mem hl

/-- Everything a step of the clients can do: nothing, once all have done their work; or a step of a client that has one,
after the free choice. -/
theorem State.agentStep_cases {s t : State} (h : s.agentStep = .next t) :
    s.halted = false ∧
      ((t = s ∧ s.allDone = true) ∨
       (∃ c o, c ∈ s.ready ∧ t = (s.withOracle o).clientStep c)) := by
  unfold State.agentStep at h
  split at h
  · cases h
  · rename_i hh
    refine ⟨by simpa using hh, ?_⟩
    split at h
    · split at h
      · cases h; exact .inl ⟨rfl, by assumption⟩
      · cases h
    · rename_i c hc
      cases h
      exact .inr ⟨c, s.oracle, by simp [hc], rfl⟩
    · rename_i c d cs hc
      cases h
      refine .inr ⟨_, _, ?_, rfl⟩
      rw [hc]
      exact List.getD_mod_mem _ _ _ (by simp)

/-- Everything a step can do: execute the command at the head of the stream, or move a client. -/
theorem step_cases {s t : State} (h : step s = .next t) :
    (∃ i rest, decode s.stream = .command i rest ∧ exec i (s.withStream rest) = .next t) ∨
    (t = s ∧ s.allDone = true) ∨
    (∃ c o, c ∈ s.ready ∧ t = (s.withOracle o).clientStep c) := by
  unfold step State.fetch at h
  split at h
  · rename_i i rest heq
    split at heq <;> cases heq
    exact .inl ⟨i, rest, by assumption, h⟩
  · cases h
  · exact .inr (State.agentStep_cases h).2

/-- The readiness of a client does not depend on the free values. -/
@[simp] theorem State.withOracle_clientHasStep (s : State) (o : Oracle) (cl : Client) :
    (s.withOracle o).clientHasStep cl = s.clientHasStep cl := rfl

/-- Everything a step of a ready client can do: the next action of its operation, the return of an operation that has
none left, or the start of its next call. -/
theorem State.clientStep_cases {s : State} {c : Nat} (h : c ∈ s.ready) :
    ∃ cl, s.clients[c]? = some cl ∧
      ((∃ r a rest, cl.running = some r ∧ r.todo = a :: rest ∧ s.actPossible r = true ∧
          s.clientStep c = s.runAct c a rest) ∨
       (∃ r, cl.running = some r ∧ r.todo = [] ∧ s.actPossible r = true ∧ s.clientStep c = s.returnOk c .unit) ∨
       (∃ call calls, cl.running = none ∧ cl.calls = call :: calls ∧ s.callPossible cl call = true ∧
          s.clientStep c = s.startCall c cl call calls)) := by
  obtain ⟨cl, hcl, hs⟩ := State.mem_ready.1 h
  refine ⟨cl, hcl, ?_⟩
  unfold State.clientHasStep at hs
  unfold State.clientStep
  rw [hcl]
  cases hr : cl.running with
  | some r =>
    rw [hr] at hs
    cases ht : r.todo with
    | nil => exact .inr (.inl ⟨r, rfl, ht, hs, by simp [hr, ht]⟩)
    | cons a rest => exact .inl ⟨r, a, rest, rfl, ht, hs, by simp [hr, ht]⟩
  | none =>
    rw [hr] at hs
    cases hc : cl.calls with
    | nil => rw [hc] at hs; cases hs
    | cons call calls =>
      rw [hc] at hs
      exact .inr (.inr ⟨call, calls, rfl, rfl, hs, by simp [hr, hc]⟩)

/-! ### One client alone -/

/-- Client `c` alone has a step: it has one, and no other client has. -/
theorem State.ready_eq_singleton {s : State} {c : Nat} :
    s.ready = [c] ↔ (∃ cl, s.clients[c]? = some cl ∧ s.clientHasStep cl = true) ∧
      ∀ d cl, d ≠ c → s.clients[d]? = some cl → s.clientHasStep cl = false := by
  constructor
  · intro h
    refine ⟨State.mem_ready.1 (by rw [h]; exact List.mem_singleton_self c), fun d cl hd hcl => ?_⟩
    by_contra hp
    have hm : d ∈ s.ready := State.mem_ready.2 ⟨cl, hcl, by simpa using hp⟩
    rw [h, List.mem_singleton] at hm
    exact hd hm
  · rintro ⟨hc, ho⟩
    have hm : c ∈ s.ready := State.mem_ready.2 hc
    have hn : s.ready.Nodup := List.nodup_range.filter _
    have hall : ∀ d ∈ s.ready, d = c := by
      intro d hd
      obtain ⟨cl, hcl, hp⟩ := State.mem_ready.1 hd
      by_contra hne
      rw [ho d cl hne hcl] at hp
      cases hp
    generalize s.ready = l at hm hn hall
    match l with
    | [] => cases hm
    | [d] => rw [hall d (List.mem_singleton_self d)]
    | d :: e :: _ =>
      have hd := hall d (by simp)
      have he := hall e (by simp)
      simp [hd, he] at hn

/-- While `c` is in an operation, the clients that had no step before it began have none: what the other clients wait
for is the lock, free when the operation began, or the end of every operation, or handles of their own. -/
theorem State.ready_stays {s s' : State} {c : Nat} {cl' : Client} (h : s.ready = [c])
    (hl : s.lockFree = true ∨ s.session = none) (hS : s'.session.isSome = s.session.isSome)
    (hc : ∀ d, d ≠ c → s'.clients[d]? = s.clients[d]?) (hcl : s'.clients[c]? = some cl')
    (hr : cl'.running.isSome = true) (hp : s'.clientHasStep cl' = true) : s'.ready = [c] := by
  refine State.ready_eq_singleton.2 ⟨⟨cl', hcl, hp⟩, fun d cl hd hcl2 => ?_⟩
  have hidle := (State.ready_eq_singleton.1 h).2 d cl hd ((hc d hd).symm.trans hcl2)
  have hno : s'.noOperation = false := by
    unfold State.noOperation
    rw [List.all_eq_false]
    refine ⟨cl', List.mem_of_getElem? hcl, ?_⟩
    obtain ⟨r, hr⟩ := Option.isSome_iff_exists.1 hr
    simp [hr]
  have hN : s'.session.isNone = s.session.isNone := by
    cases h1 : s.session <;> cases h2 : s'.session <;> simp [h1, h2] at hS ⊢
  unfold State.clientHasStep at hidle ⊢
  cases hrun : cl.running with
  | some r =>
    rw [hrun] at hidle
    dsimp only at hidle ⊢
    unfold State.actPossible at hidle ⊢
    cases hh : r.hung with
    | true => simp
    | false =>
      rw [hh] at hidle
      rw [hS, hN]
      split
      · rename_i ht
        rw [ht] at hidle
        rcases hl with hl | hl
        · simp [hl] at hidle
        · have : s'.session = none := by
            rw [hl] at hS
            simpa using hS
          simp [State.lockFree, this]
      all_goals simp_all
  | none =>
    rw [hrun] at hidle
    cases hcs : cl.calls with
    | nil => rfl
    | cons call calls =>
      rw [hcs] at hidle
      dsimp only at hidle ⊢
      cases call <;> simp only [State.callPossible, hS, hN, hno, Bool.and_false] at hidle ⊢ <;> exact hidle

/-- A client that alone has a step moves. -/
theorem step_alone {s : State} {c : Nat} (hr : s.ready = [c]) (hs : s.stream = []) (hh : s.halted = false) :
    step s = .next (s.clientStep c) := by
  rw [step_empty hs]
  simp [State.agentStep, hh, hr]

/-- Some client has work and no agent has a step, exactly then a step is stuck. -/
theorem State.agentStep_stuck {s : State} :
    s.agentStep = .fault .stuck ↔ s.halted = false ∧ s.ready = [] ∧ s.allDone = false := by
  unfold State.agentStep
  cases s.halted <;> rcases s.ready with _ | ⟨c, _ | ⟨d, cs⟩⟩ <;> simp

end Sys2Proof.Machine
end

