-- ==== Sys2Proof/Laws/Actions.lean ====
section
/-! SUPPORT. What one action of an operation does to the session and to its client, said once for all actions. -/

namespace Sys2Proof.Machine

/-- A session update that changes neither the bus mode nor the pins nor, but for the release by `c`, the lock. -/
def ReleasesOnly (c : Nat) (f : Session → Session) : Prop :=
  ∀ S : Session, (f S).lock = (S.release c).lock ∧ (f S).busMode = S.busMode ∧ (f S).pinAvailable = S.pinAvailable

/-- What an action `a` of client `c`, with the actions `rest` behind it, makes of the session and of the client. -/
inductive ActMoves (s : State) (c : Nat) (cl : Client) (r : Running) (a : Act) (rest : List Act) :
    Option Session → Client → Prop where
  /-- The operation ends: the lock is released, the pin handles stay. -/
  | ends (f : Session → Session) (cl' : Client) (hf : ReleasesOnly c f) (hr : cl'.running = none)
      (hp : cl'.pins = cl.pins) : ActMoves s c cl r a rest (s.session.map f) cl'
  /-- `acquirePin` hands out a pin and ends. -/
  | claims (bit : Nat) (bank : Bank) (S : Session) (cl' : Client) (ha : a = .claimPin bit bank)
      (hS : s.session = some S) (hv : pinValid bit bank = true) (hav : S.available (pinIndex bit bank) = true)
      (hr : cl'.running = none) (hp : cl'.pins = cl.pins ++ [some ⟨bank, bit⟩]) :
      ActMoves s c cl r a rest (some ((S.setAvailable (pinIndex bit bank) false).release c)) cl'
  /-- The operation goes on with `rest`, and the session is as it was. -/
  | goesOn (cl' : Client) (r' : Running) (hr : cl'.running = some r') (ht : r'.todo = rest) (hp : cl'.pins = cl.pins)
      (hl : a ≠ .takeLock) (hu : a ≠ .releaseLock) (hc : ∀ b, a ≠ .commit b) (hi : ∀ i, a ≠ .freePin i) :
      ActMoves s c cl r a rest s.session cl'
  /-- The operation takes the lock. -/
  | locks (cl' : Client) (r' : Running) (ha : a = .takeLock) (hr : cl'.running = some r') (ht : r'.todo = rest)
      (hp : cl'.pins = cl.pins) : ActMoves s c cl r a rest (s.session.map fun S => S.setLock (.held c)) cl'
  /-- The operation ends a lock region. -/
  | unlocks (cl' : Client) (r' : Running) (ha : a = .releaseLock) (hr : cl'.running = some r') (ht : r'.todo = rest)
      (hp : cl'.pins = cl.pins) : ActMoves s c cl r a rest (s.session.map (Session.release c)) cl'
  /-- The operation commits a bus. -/
  | commits (b : BusMode) (cl' : Client) (r' : Running) (ha : a = .commit b) (hr : cl'.running = some r')
      (ht : r'.todo = rest) (hp : cl'.pins = cl.pins) :
      ActMoves s c cl r a rest (s.session.map fun S => S.setBusMode b) cl'
  /-- The operation sets a pin's flag again. -/
  | frees (i : Nat) (cl' : Client) (r' : Running) (ha : a = .freePin i) (hr : cl'.running = some r') (ht : r'.todo = rest)
      (hp : cl'.pins = cl.pins) : ActMoves s c cl r a rest (s.session.map fun S => S.setAvailable i true) cl'
  /-- The operation goes on with other actions than `rest`; of the session only the loopback flag can change. -/
  | turns (f : Session → Session) (cl' : Client) (r' : Running)
      (hf : ∀ S, (f S).lock = S.lock ∧ (f S).busMode = S.busMode ∧ (f S).pinAvailable = S.pinAvailable)
      (hr : cl'.running = some r') (hp : cl'.pins = cl.pins)
      (ht : (a = .ack ∧ r'.todo = abortNack) ∨
        (∃ bank bit level v, a = .readBank bank bit level ∧ r'.todo = gpioWriteBack s.params.gpioRmwAtomic bank bit level v) ∨
        (∃ enabled old, a = .writeLoopback enabled ∧ r'.todo = .sendLoopback enabled old :: rest) ∨
        (∃ speed S, a = .matchSpi speed ∧ s.session = some S ∧ r'.todo = requestSpiBody S.busMode speed) ∨
        (∃ speed S, a = .matchI2c speed ∧ s.session = some S ∧ r'.todo = requestI2cBody S.busMode speed)) :
      ActMoves s c cl r a rest (s.session.map f) cl'
  /-- `open` makes the session and returns it. -/
  | opens (cl' : Client) (ha : a = .makeSession) (hr : cl'.running = none) (hp : cl'.pins = cl.pins) :
      ActMoves s c cl r a rest (some Session.fresh) cl'
  /-- Nothing moves: the operation hangs, or the run halts, or the action has no session to work on. -/
  | stays (cl' : Client) (r' : Running) (hr : cl'.running = some r') (ht : r'.todo = r.todo) (hp : cl'.pins = cl.pins) :
      ActMoves s c cl r a rest s.session cl'

theorem releasesOnly_release (c : Nat) : ReleasesOnly c (Session.release c) := by
  intro S
  simp

/-- Changing an element that is there is replacing it. -/
theorem modify_eq_set {α : Type} {l : List α} {c : Nat} {x : α} (h : l[c]? = some x) (f : α → α) :
    l.modify c f = l.set c (f x) := by
  apply List.ext_getElem?
  intro i
  rw [List.getElem?_modify, List.getElem?_set]
  by_cases hi : c = i
  · subst hi
    obtain ⟨hlt, rfl⟩ := List.getElem?_eq_some_iff.1 h
    simp [hlt]
  · simp [hi]

/-! ### On the way through an action -/

/-- `s1` is `s` in the middle of an action of client `c`: the session is the same, and of the clients only `c` has
moved, which is now `cl1`, still running and with the same pin handles. -/
structure Midway (s : State) (c : Nat) (cl : Client) (r : Running) (s1 : State) (cl1 : Client) (r1 : Running) : Prop where
  session : s1.session = s.session
  params : s1.params = s.params
  clients : s1.clients = s.clients.set c cl1
  here : s1.clients[c]? = some cl1
  running : cl1.running = some r1
  todo : r1.todo = r.todo
  pins : cl1.pins = cl.pins

section
variable {s s1 : State} {c : Nat} {cl cl1 : Client} {r r1 : Running} {a : Act} {rest : List Act}

theorem Midway.start (hcl : s.clients[c]? = some cl) (hr : cl.running = some r) : Midway s c cl r s cl r where
  session := rfl
  params := rfl
  clients := by
    obtain ⟨h, rfl⟩ := List.getElem?_eq_some_iff.1 hcl
    rw [List.set_getElem_self]
  here := hcl
  running := hr
  todo := rfl
  pins := rfl

/-- A change of other parts of the state keeps the way. -/
theorem Midway.other (m : Midway s c cl r s1 cl1 r1) {s2 : State} (hS : s2.session = s1.session)
    (hc : s2.clients = s1.clients) (hp : s2.params = s1.params) : Midway s c cl r s2 cl1 r1 where
  session := hS.trans m.session
  params := hp.trans m.params
  clients := hc.trans m.clients
  here := hc ▸ m.here
  running := m.running
  todo := m.todo
  pins := m.pins

/-- A change of the running operation that leaves its actions keeps the way. -/
theorem Midway.onRunning (m : Midway s c cl r s1 cl1 r1) (f : Running → Running) (hf : (f r1).todo = r1.todo) :
    Midway s c cl r (s1.onClient c (Client.onRunning f)) (cl1.onRunning f) (f r1) where
  session := m.session
  params := m.params
  clients := by
    rw [State.onClient_clients, modify_eq_set m.here, m.clients, List.set_set]
  here := by
    rw [State.onClient_clients, List.getElem?_modify, m.here]
    simp
  running := by simp [m.running]
  todo := hf.trans m.todo
  pins := m.pins

/-- What the clients are when the operation goes on with `todo`. -/
theorem Midway.goOn (m : Midway s c cl r s1 cl1 r1) (todo : List Act) :
    (s1.goOn c todo).clients = s.clients.set c { cl1 with running := some { r1 with todo := todo } } := by
  rw [State.goOn_clients, modify_eq_set m.here, m.clients, List.set_set]
  simp [Client.onRunning, m.running]

/-- What the clients are when the operation ends. -/
theorem Midway.finish (m : Midway s c cl r s1 cl1 r1) (res : Result) :
    (s1.finish c res).clients = s.clients.set c (cl1.return res) := by
  rw [State.finish_clients, modify_eq_set m.here, m.clients, List.set_set]

/-- The statement of `runAct_moves` for one resulting state. -/
def MovesTo (s : State) (c : Nat) (cl : Client) (r : Running) (a : Act) (rest : List Act) (t : State) : Prop :=
  ∃ cl', t.clients = s.clients.set c cl' ∧ ActMoves s c cl r a rest t.session cl'

theorem Midway.movesTo_finish (m : Midway s c cl r s1 cl1 r1) (res : Result) :
    MovesTo s c cl r a rest (s1.finish c res) :=
  ⟨_, m.finish res, by
    rw [State.finish_session, m.session]
    exact .ends _ _ (releasesOnly_release c) rfl m.pins⟩

theorem Midway.movesTo_goOn (m : Midway s c cl r s1 cl1 r1) (hl : a ≠ .takeLock) (hu : a ≠ .releaseLock)
    (hc : ∀ b, a ≠ .commit b) (hi : ∀ i, a ≠ .freePin i) : MovesTo s c cl r a rest (s1.goOn c rest) :=
  ⟨_, m.goOn rest, by
    rw [State.goOn_session, m.session]
    exact .goesOn _ _ rfl rfl m.pins hl hu hc hi⟩

theorem Midway.movesTo_hang (m : Midway s c cl r s1 cl1 r1) : MovesTo s c cl r a rest (s1.hang c) := by
  have m' := m.onRunning (fun r => { r with hung := true }) rfl
  exact ⟨_, m'.clients, by
    rw [State.hang_session, m.session]
    exact .stays _ _ m'.running m'.todo m'.pins⟩

theorem Midway.send (m : Midway s c cl r s1 cl1 r1) (bs : List Byte) :
    Midway s c cl r (s1.send c bs).2 cl1 r1 := by
  obtain ⟨h1, h2, h3, _⟩ := s1.send_frame c bs
  exact m.other h1 h2 h3

theorem Midway.receive (m : Midway s c cl r s1 cl1 r1) (n : Nat) :
    Midway s c cl r (s1.receive c n).2 cl1 r1 := by
  obtain ⟨h1, h2, h3, _⟩ := s1.receive_frame c n
  exact m.other h1 h2 h3

/-- A `Receive` that ends, hangs, or goes on as `k` says. -/
theorem Midway.movesTo_receiveThen (m : Midway s c cl r s1 cl1 r1) (n : Nat) (k : List Byte → State → State)
    (hk : ∀ bs s2, Midway s c cl r s2 cl1 r1 → MovesTo s c cl r a rest (k bs s2)) :
    MovesTo s c cl r a rest (s1.receiveThen c n k) := by
  unfold State.receiveThen
  dsimp only
  split
  · exact hk _ _ (m.receive n)
  · exact (m.receive n).movesTo_finish _
  · exact (m.receive n).movesTo_hang

end

/-! ### Every action -/

/-- A client is replaced, and its operation ends. -/
theorem State.setClient_finish {s : State} {c : Nat} {cl : Client} (hcl : s.clients[c]? = some cl) (cl2 : Client)
    (res : Result) : ((s.setClient c cl2).finish c res).clients = s.clients.set c (cl2.return res) := by
  have h : (s.setClient c cl2).clients[c]? = some cl2 := by
    obtain ⟨hlt, _⟩ := List.getElem?_eq_some_iff.1 hcl
    simp [hlt]
  rw [State.finish_clients, modify_eq_set h, State.setClient_clients, List.set_set]

/-- A client is changed, and its operation ends. -/
theorem State.onClient_finish {s : State} {c : Nat} {cl : Client} (hcl : s.clients[c]? = some cl) (f : Client → Client)
    (res : Result) : ((s.onClient c f).finish c res).clients = s.clients.set c ((f cl).return res) := by
  have h : (s.onClient c f).clients[c]? = some (f cl) := by
    simp [hcl]
  rw [State.finish_clients, modify_eq_set h, State.onClient_clients, modify_eq_set hcl, List.set_set]

/-- Everything an action can do to the session and the clients. -/
theorem State.runAct_moves {s : State} {c : Nat} {cl : Client} {r : Running} {a : Act} {rest : List Act}
    (hcl : s.clients[c]? = some cl) (hr : cl.running = some r) (ht : r.todo = a :: rest) :
    MovesTo s c cl r a rest (s.runAct c a rest) := by
  have m := Midway.start hcl hr
  have mp : ∀ ph, Midway s c cl r (s.setPhase c ph) _ _ := fun ph => m.onRunning (fun r => { r with phase := ph }) rfl
  cases a with
  | takeLock =>
    refine ⟨_, m.goOn rest, ?_⟩
    exact .locks _ _ rfl rfl rfl rfl
  | releaseLock =>
    refine ⟨_, m.goOn rest, ?_⟩
    exact .unlocks _ _ rfl rfl rfl rfl
  | send ph bs =>
    simp only [State.runAct, State.sendThen]
    split
    · exact ((mp ph).send bs).movesTo_goOn (by simp) (by simp) (by simp) (by simp)
    · exact ((mp ph).send bs).movesTo_finish _
  | stopAfterNack => exact ((mp .stop).send i2cStop).movesTo_goOn (by simp) (by simp) (by simp) (by simp)
  | ack =>
    refine m.movesTo_receiveThen 1 _ fun bs s2 m2 => ?_
    split
    · exact m2.movesTo_goOn (by simp) (by simp) (by simp) (by simp)
    · refine ⟨_, m2.goOn abortNack, ?_⟩
      rw [State.goOn_session, m2.session, show s.session = s.session.map fun S => S by simp]
      exact .turns _ _ _ (fun S => ⟨rfl, rfl, rfl⟩) rfl m2.pins (.inl ⟨rfl, rfl⟩)
  | read n =>
    refine m.movesTo_receiveThen n _ fun bs s2 m2 => ?_
    exact (m2.onRunning (fun r => { r with buf := r.buf ++ bs }) rfl).movesTo_goOn (by simp) (by simp) (by simp) (by simp)
  | readBank bank bit level =>
    refine m.movesTo_receiveThen 1 _ fun bs s2 m2 => ?_
    refine ⟨_, m2.goOn _, ?_⟩
    rw [State.goOn_session, m2.session, show s.session = s.session.map fun S => S by simp, m2.params]
    exact .turns _ _ _ (fun S => ⟨rfl, rfl, rfl⟩) rfl m2.pins (.inr (.inl ⟨_, _, _, _, rfl, rfl⟩))
  | writeLoopback enabled =>
    simp only [State.runAct, State.inSession]
    split
    · rename_i S hS
      refine ⟨_, m.goOn _, ?_⟩
      exact .turns _ _ _ (fun S => ⟨rfl, rfl, rfl⟩) rfl rfl (.inr (.inr (.inl ⟨_, _, rfl, rfl⟩)))
    · exact ⟨_, m.clients, .stays _ _ m.running m.todo m.pins⟩
  | sendLoopback enabled old =>
    simp only [State.runAct, State.sendLoopback]
    split
    · exact (m.send _).movesTo_finish _
    · split
      · refine ⟨_, (m.send _).finish _, ?_⟩
        rw [State.raise_eq, State.finish_session, State.onSession_session, (m.send _).session, Option.map_map]
        exact .ends _ _ (fun S => ⟨by rw [Function.comp_apply, Session.release_lock, Session.release_lock]; rfl, by simp, by simp⟩) rfl rfl
      · exact (m.send _).movesTo_finish _
  | matchSpi speed =>
    simp only [State.runAct, State.inSession]
    split
    · rename_i S hS
      refine ⟨_, m.goOn _, ?_⟩
      rw [State.goOn_session, show s.session = s.session.map fun S => S by simp]
      exact .turns _ _ _ (fun S => ⟨rfl, rfl, rfl⟩) rfl rfl (.inr (.inr (.inr (.inl ⟨_, S, rfl, hS, rfl⟩))))
    · exact ⟨_, m.clients, .stays _ _ m.running m.todo m.pins⟩
  | matchI2c speed =>
    simp only [State.runAct, State.inSession]
    split
    · rename_i S hS
      refine ⟨_, m.goOn _, ?_⟩
      rw [State.goOn_session, show s.session = s.session.map fun S => S by simp]
      exact .turns _ _ _ (fun S => ⟨rfl, rfl, rfl⟩) rfl rfl (.inr (.inr (.inr (.inr ⟨_, S, rfl, hS, rfl⟩))))
    · exact ⟨_, m.clients, .stays _ _ m.running m.todo m.pins⟩
  | commit b =>
    refine ⟨_, m.goOn rest, ?_⟩
    exact .commits _ _ _ rfl rfl rfl rfl
  | giveSpi speed =>
    simp only [State.runAct, State.giveSpi, hcl]
    exact ⟨_, State.setClient_finish hcl _ _, .ends _ _ (releasesOnly_release c) rfl rfl⟩
  | giveI2c speed =>
    simp only [State.runAct, State.giveI2c, hcl]
    exact ⟨_, State.setClient_finish hcl _ _, .ends _ _ (releasesOnly_release c) rfl rfl⟩
  | claimPin bit bank =>
    simp only [State.runAct, State.inSession]
    split
    · rename_i S hS
      unfold State.claimPin
      split
      · exact m.movesTo_finish _
      · split
        · exact m.movesTo_finish _
        · rename_i hv hav
          simp only [State.givePin, State.onSession_clients, hcl]
          refine ⟨_, State.setClient_finish (by exact hcl) _ _, ?_⟩
          rw [State.returnOk_eq, State.finish_session, State.setClient_session, State.onSession_session, hS]
          exact .claims bit bank S _ rfl hS (by simpa using hv) (by simpa using hav) rfl rfl
    · exact ⟨_, m.clients, .stays _ _ m.running m.todo m.pins⟩
  | freePin i =>
    refine ⟨_, m.goOn rest, ?_⟩
    exact .frees _ _ _ rfl rfl rfl rfl
  | setMode h cpol cpha =>
    simp only [State.runAct]
    split
    · exact ⟨_, State.onClient_finish hcl _ _, .ends _ _ (releasesOnly_release c) rfl rfl⟩
    · exact m.movesTo_finish _
  | openDevice =>
    simp only [State.runAct, State.openDevice]
    split
    · refine Midway.movesTo_goOn (s1 := ((State.withDevice _ _))) (m.other rfl rfl rfl) (by simp) (by simp) (by simp) (by simp)
    · exact ⟨_, m.clients, .stays _ _ m.running m.todo m.pins⟩
  | sendOpen =>
    simp only [State.runAct, State.sendOpen]
    split
    · exact (m.send _).movesTo_goOn (by simp) (by simp) (by simp) (by simp)
    · exact (m.send _).movesTo_finish _
  | makeSession => exact ⟨_, m.finish (.ok .session), .opens _ rfl rfl rfl⟩
  | done v => exact m.movesTo_finish _
  | doneRead => exact m.movesTo_finish _
  | raise e => exact m.movesTo_finish _

/-- A client that ends its operation. -/
theorem State.finish_moves {s : State} {c : Nat} {cl : Client} (hcl : s.clients[c]? = some cl) (res : Result) :
    (s.finish c res).clients = s.clients.set c (cl.return res) := by
  rw [State.finish_clients, modify_eq_set hcl]

/-! ### The start of a call -/

/-- A call other than teardown starts by becoming the client's operation. -/
theorem State.startCall_running {s : State} {c : Nat} {cl : Client} {call : Call} {calls : List Call}
    (h : call ≠ .teardown) :
    s.startCall c cl call calls = s.setClient c { cl.dropped call with
      calls := calls
      running := some { call := call, phase := .idle, todo := planOf s.params cl call, buf := [], hung := false } } := by
  cases call <;> first | rfl | exact absurd rfl h

/-- No operation is in progress, client by client. -/
theorem State.noOperation_iff (s : State) :
    s.noOperation = true ↔ ∀ (c : Nat) (cl : Client), s.clients[c]? = some cl → cl.running = none := by
  unfold State.noOperation
  simp only [List.all_eq_true, Option.isNone_iff_eq_none]
  constructor
  · intro h c cl hc
    exact h cl (List.mem_of_getElem? hc)
  · intro h cl hc
    obtain ⟨i, hi⟩ := List.mem_iff_getElem?.1 hc
    exact h i cl hi

/-- After teardown no client holds a handle, and none has started an operation. -/
theorem State.teardown_client {s : State} {c c' : Nat} {cl' : Client} (h : (s.teardown c).clients[c']? = some cl') :
    cl'.spi = [] ∧ cl'.i2c = [] ∧ cl'.pins = [] ∧
      ∃ cl, s.clients[c']? = some cl ∧ (cl'.running = none ∨ cl'.running = cl.running) := by
  simp only [State.teardown, List.getElem?_modify, List.getElem?_map] at h
  cases hcl : s.clients[c']? with
  | none => simp [hcl] at h
  | some cl =>
    by_cases hc : c = c'
    · simp [hcl, hc] at h
      subst h
      exact ⟨rfl, rfl, rfl, cl, rfl, .inl rfl⟩
    · simp [hcl, hc] at h
      subst h
      exact ⟨rfl, rfl, rfl, cl, rfl, .inr rfl⟩

/-! ### Events -/

/-- The history a `Receive` and what follows it leave, where what follows adds no event. -/
theorem State.receiveThen_history {s : State} {c n : Nat} {k : List Byte → State → State}
    (hk : ∀ bs s2, (k bs s2).history = s2.history) :
    (s.receiveThen c n k).history = s.history ∨
      ∃ o, (s.receiveThen c n k).history = s.history ++ [.receive c n o] := by
  unfold State.receiveThen
  rcases s.receive_cases c n with ⟨bs, o, h, _⟩ | ⟨e, o, j, _, h⟩ | ⟨o, h⟩ <;> rw [h]
  · exact .inr ⟨.ok bs, hk _ _⟩
  · exact .inr ⟨.err e, rfl⟩
  · exact .inl rfl

/-- The events of one action: none; a `Send` of an action that sends; a `Receive` of an action that receives; `Halt`. -/
theorem State.runAct_history (s : State) (c : Nat) (a : Act) (rest : List Act) :
    (s.runAct c a rest).history = s.history ∨
    (∃ bs e, (s.runAct c a rest).history = s.history ++ [.send c bs e] ∧
      (a.needsLock = true ∨ (a = .sendOpen ∧ bs = openSeq))) ∨
    (∃ n o, (s.runAct c a rest).history = s.history ++ [.receive c n o] ∧ a.needsLock = true) ∨
    ((s.runAct c a rest).history = s.history ++ [.halt] ∧ a = .openDevice) := by
  cases a with
  | send ph bs =>
    refine .inr (.inl ⟨bs, ((s.setPhase c ph).send c bs).1, ?_, .inl rfl⟩)
    rw [State.runAct, State.sendThen]
    split <;> exact ((s.setPhase c ph).send_frame c bs).2.2.2.2.2
  | stopAfterNack => exact .inr (.inl ⟨_, _, ((s.setPhase c .stop).send_frame c i2cStop).2.2.2.2.2, .inl rfl⟩)
  | ack =>
    rw [State.runAct]
    refine Or.elim (State.receiveThen_history ?_) .inl fun h => .inr (.inr (.inl ⟨1, h.choose, h.choose_spec, rfl⟩))
    intro bs s2
    split <;> rfl
  | read n =>
    rw [State.runAct]
    refine Or.elim (State.receiveThen_history ?_) .inl fun h => .inr (.inr (.inl ⟨n, h.choose, h.choose_spec, rfl⟩))
    intro bs s2
    rfl
  | readBank bank bit level =>
    rw [State.runAct]
    refine Or.elim (State.receiveThen_history ?_) .inl fun h => .inr (.inr (.inl ⟨1, h.choose, h.choose_spec, rfl⟩))
    intro bs s2
    rfl
  | sendLoopback enabled old =>
    refine .inr (.inl ⟨loopback enabled, (s.send c (loopback enabled)).1, ?_, .inl rfl⟩)
    rw [State.runAct, State.sendLoopback]
    split
    · exact (s.send_frame c _).2.2.2.2.2
    · split <;> exact (s.send_frame c _).2.2.2.2.2
  | sendOpen =>
    refine .inr (.inl ⟨_, (s.send c openSeq).1, ?_, .inr ⟨rfl, rfl⟩⟩)
    rw [State.runAct, State.sendOpen]
    split <;> exact (s.send_frame c _).2.2.2.2.2
  | openDevice =>
    rw [State.runAct, State.openDevice]
    split
    · exact .inl rfl
    · exact .inr (.inr (.inr ⟨rfl, rfl⟩))
  | writeLoopback enabled => rw [State.runAct, State.inSession]; split <;> exact .inl rfl
  | matchSpi speed => rw [State.runAct, State.inSession]; split <;> exact .inl rfl
  | matchI2c speed => rw [State.runAct, State.inSession]; split <;> exact .inl rfl
  | giveSpi speed => rw [State.runAct, State.giveSpi]; split <;> exact .inl rfl
  | giveI2c speed => rw [State.runAct, State.giveI2c]; split <;> exact .inl rfl
  | claimPin bit bank =>
    rw [State.runAct, State.inSession]
    split
    · rw [State.claimPin]
      split
      · exact .inl rfl
      · split
        · exact .inl rfl
        · rw [State.givePin]; split <;> exact .inl rfl
    · exact .inl rfl
  | setMode h cpol cpha => rw [State.runAct]; split <;> exact .inl rfl
  | takeLock => exact .inl rfl
  | releaseLock => exact .inl rfl
  | commit b => exact .inl rfl
  | freePin i => exact .inl rfl
  | makeSession => exact .inl rfl
  | done v => exact .inl rfl
  | doneRead => exact .inl rfl
  | raise e => exact .inl rfl

/-- The start of a call makes no event. -/
theorem State.startCall_history (s : State) (c : Nat) (cl : Client) (call : Call) (calls : List Call) :
    (s.startCall c cl call calls).history = s.history := by
  cases call <;> rfl

/-! ### The device -/

/-- What a `Send` leaves of the device: the device, or an unspecified one. -/
theorem State.send_device {P : Device → Prop} (s : State) (c : Nat) (bs : List Byte) (h : P s.device)
    (hu : ∀ k, P (Device.unspecified k)) : P (s.send c bs).2.device := by
  rcases s.send_cases c bs with ⟨_, e⟩ | ⟨_, _, e⟩ <;> rw [e]
  · exact h
  · exact hu _

/-- What a `Receive`, and what follows it without a change of the device, leave of the device. -/
theorem State.receiveThen_device {P : Device → Prop} {s : State} {c n : Nat} {k : List Byte → State → State}
    (h : P s.device) (hd : ∀ d m, P d → P (d.dropRx m)) (hs : ∀ d, P d → P d.desync)
    (hk : ∀ bs s2, (k bs s2).device = s2.device) : P (s.receiveThen c n k).device := by
  unfold State.receiveThen
  rcases s.receive_cases c n with ⟨bs, o, e, _⟩ | ⟨_, o, j, _, e⟩ | ⟨o, e⟩ <;> rw [e]
  · dsimp only
    rw [hk]
    exact hd _ _ h
  · exact hs _ (hd _ _ h)
  · exact h

/-- A property of the device that an unspecified device has, and that the loss of bytes and of the step keeps, is kept
by every action, but for the opening of the device, after which it must hold of a device at launch. -/
theorem State.runAct_device {P : Device → Prop} (s : State) (c : Nat) (a : Act) (rest : List Act) (h : P s.device)
    (hu : ∀ k, P (Device.unspecified k)) (hd : ∀ d m, P d → P (d.dropRx m)) (hs : ∀ d, P d → P d.desync)
    (ho : a = .openDevice → ∀ b k, P ((Device.unspecified k).atLaunch b)) : P (s.runAct c a rest).device := by
  cases a with
  | send ph bs =>
    have hP := State.send_device (P := P) (s.setPhase c ph) c bs h hu
    rw [State.runAct, State.sendThen]
    split <;> exact hP
  | stopAfterNack => exact State.send_device (P := P) (s.setPhase c .stop) c i2cStop h hu
  | ack =>
    rw [State.runAct]
    exact State.receiveThen_device h hd hs fun bs s2 => by split <;> rfl
  | read n =>
    rw [State.runAct]
    exact State.receiveThen_device h hd hs fun bs s2 => rfl
  | readBank bank bit level =>
    rw [State.runAct]
    exact State.receiveThen_device h hd hs fun bs s2 => rfl
  | sendLoopback enabled old =>
    have hP := State.send_device (P := P) s c (loopback enabled) h hu
    rw [State.runAct, State.sendLoopback]
    split
    · exact hP
    · split <;> exact hP
  | sendOpen =>
    have hP := State.send_device (P := P) s c openSeq h hu
    rw [State.runAct, State.sendOpen]
    split <;> exact hP
  | openDevice =>
    rw [State.runAct, State.openDevice]
    split
    · exact ho rfl _ _
    · exact h
  | writeLoopback enabled => rw [State.runAct, State.inSession]; split <;> exact h
  | matchSpi speed => rw [State.runAct, State.inSession]; split <;> exact h
  | matchI2c speed => rw [State.runAct, State.inSession]; split <;> exact h
  | giveSpi speed => rw [State.runAct, State.giveSpi]; split <;> exact h
  | giveI2c speed => rw [State.runAct, State.giveI2c]; split <;> exact h
  | claimPin bit bank =>
    rw [State.runAct, State.inSession]
    split
    · rw [State.claimPin]
      split
      · exact h
      · split
        · exact h
        · rw [State.givePin]; split <;> exact h
    · exact h
  | setMode k cpol cpha => rw [State.runAct]; split <;> exact h
  | takeLock => exact h
  | releaseLock => exact h
  | commit b => exact h
  | freePin i => exact h
  | makeSession => exact h
  | done v => exact h
  | doneRead => exact h
  | raise e => exact h

/-! ### The parameters -/

theorem State.receiveThen_params {s : State} {c n : Nat} {k : List Byte → State → State}
    (hk : ∀ bs s2, (k bs s2).params = s2.params) : (s.receiveThen c n k).params = s.params := by
  unfold State.receiveThen
  have hf := (s.receive_frame c n).2.2.1
  dsimp only
  split
  · rw [hk, hf]
  · exact hf
  · exact hf

/-- No action changes the parameters. -/
theorem State.runAct_params (s : State) (c : Nat) (a : Act) (rest : List Act) :
    (s.runAct c a rest).params = s.params := by
  cases a with
  | send ph bs =>
    rw [State.runAct, State.sendThen]
    split <;> exact ((s.setPhase c ph).send_frame c bs).2.2.1
  | stopAfterNack => exact ((s.setPhase c .stop).send_frame c i2cStop).2.2.1
  | ack =>
    rw [State.runAct]
    exact State.receiveThen_params fun bs s2 => by split <;> rfl
  | read n =>
    rw [State.runAct]
    exact State.receiveThen_params fun bs s2 => rfl
  | readBank bank bit level =>
    rw [State.runAct]
    exact State.receiveThen_params fun bs s2 => rfl
  | sendLoopback enabled old =>
    rw [State.runAct, State.sendLoopback]
    split
    · exact (s.send_frame c _).2.2.1
    · split <;> exact (s.send_frame c _).2.2.1
  | sendOpen =>
    rw [State.runAct, State.sendOpen]
    split <;> exact (s.send_frame c _).2.2.1
  | openDevice => rw [State.runAct, State.openDevice]; split <;> rfl
  | writeLoopback enabled => rw [State.runAct, State.inSession]; split <;> rfl
  | matchSpi speed => rw [State.runAct, State.inSession]; split <;> rfl
  | matchI2c speed => rw [State.runAct, State.inSession]; split <;> rfl
  | giveSpi speed => rw [State.runAct, State.giveSpi]; split <;> rfl
  | giveI2c speed => rw [State.runAct, State.giveI2c]; split <;> rfl
  | claimPin bit bank =>
    rw [State.runAct, State.inSession]
    split
    · rw [State.claimPin]
      split
      · rfl
      · split
        · rfl
        · rw [State.givePin]; split <;> rfl
    · rfl
  | setMode k cpol cpha => rw [State.runAct]; split <;> rfl
  | takeLock => rfl
  | releaseLock => rfl
  | commit b => rfl
  | freePin i => rfl
  | makeSession => rfl
  | done v => rfl
  | doneRead => rfl
  | raise e => rfl

end Sys2Proof.Machine
end

