-- ==== Sys2Proof/Laws/Encoding.lean ====
section
/-! SUPPORT. The lemmas of the byte-order and length helpers of Decode.lean. -/

namespace Sys2Proof

@[simp] theorem get16_lo8_hi8 (v : Half) : get16 (lo8 v) (hi8 v) = v := by
  apply BitVec.eq_of_getLsbD_eq
  intro i hi
  simp only [get16, lo8, hi8, BitVec.getLsbD_append, BitVec.getLsbD_extractLsb']
  by_cases h : i < 8
  · simp [h]
  · have : i - 8 < 8 := by omega
    simp [h, this, show 8 + (i - 8) = i by omega]

@[simp] theorem lo8_get16 (b0 b1 : Byte) : lo8 (get16 b0 b1) = b0 := by
  apply BitVec.eq_of_getLsbD_eq
  intro i hi
  simp only [get16, lo8, BitVec.getLsbD_append, BitVec.getLsbD_extractLsb']
  simp [hi]

@[simp] theorem hi8_get16 (b0 b1 : Byte) : hi8 (get16 b0 b1) = b1 := by
  apply BitVec.eq_of_getLsbD_eq
  intro i hi
  simp only [get16, hi8, BitVec.getLsbD_append, BitVec.getLsbD_extractLsb']
  simp [hi]

@[simp] theorem put16_length (v : Half) : (put16 v).length = 2 := rfl

theorem byteCountOk_iff (n : Nat) : byteCountOk n = true ↔ 1 ≤ n ∧ n ≤ 65536 := by
  simp [byteCountOk]

theorem bitCountOk_iff (k : Nat) : bitCountOk k = true ↔ 1 ≤ k ∧ k ≤ 8 := by
  simp [bitCountOk]

/-- The length-minus-one field gives the byte count back (R72). -/
theorem toNat_lengthField (n : Nat) (h : byteCountOk n = true) :
    (BitVec.ofNat 16 (n - 1)).toNat + 1 = n := by
  rw [byteCountOk_iff] at h
  rw [BitVec.toNat_ofNat]
  omega

/-- The bit-length byte is at most 7 and gives the bit count back (R73). -/
theorem toNat_bitLength (k : Nat) (h : bitCountOk k = true) :
    (encodeBitCount k).toNat ≤ 7 ∧ (encodeBitCount k).toNat + 1 = k := by
  rw [bitCountOk_iff] at h
  rw [encodeBitCount, BitVec.toNat_ofNat]
  omega

theorem byteCountOk_toNat (v : Half) : byteCountOk (v.toNat + 1) = true := by
  rw [byteCountOk_iff]
  have := v.isLt
  omega

theorem lengthField_toNat (v : Half) : BitVec.ofNat 16 (v.toNat + 1 - 1) = v := by
  simp

theorem encodeByteCount_eq (n : Nat) :
    encodeByteCount n = [lo8 (BitVec.ofNat 16 (n - 1)), hi8 (BitVec.ofNat 16 (n - 1))] := rfl

/-! ### What each operand decoder accepts -/

/-- An accepted payload form (R71, R72). -/
theorem decodePayload_command {mk : List Byte → Instr} {tl rest : List Byte} {i : Instr}
    (h : decodePayload mk tl = .command i rest) :
    ∃ p, i = mk p ∧ byteCountOk p.length = true ∧ tl = encodeByteCount p.length ++ p ++ rest := by
  unfold decodePayload at h
  split at h
  · rename_i b1 b2 tl
    dsimp only at h
    split at h <;> cases h
    rename_i hn
    refine ⟨_, rfl, ?_, ?_⟩
    · rw [List.length_take, Nat.min_eq_left hn]
      exact byteCountOk_toNat _
    · rw [List.length_take, Nat.min_eq_left hn, encodeByteCount_eq, lengthField_toNat]
      simp
  · cases h

/-- An accepted count form (R71, R72). -/
theorem decodeCount_command {mk : Nat → Instr} {tl rest : List Byte} {i : Instr}
    (h : decodeCount mk tl = .command i rest) :
    ∃ n, i = mk n ∧ byteCountOk n = true ∧ tl = encodeByteCount n ++ rest := by
  unfold decodeCount at h
  split at h <;> cases h
  refine ⟨_, rfl, byteCountOk_toNat _, ?_⟩
  rw [encodeByteCount_eq, lengthField_toNat]
  simp

/-- An accepted bit-output form (R71, R73). -/
theorem decodeBitsOut_command {mk : Nat → Byte → Instr} {tl rest : List Byte} {i : Instr}
    (h : decodeBitsOut mk tl = .command i rest) :
    ∃ k data, i = mk k data ∧ bitCountOk k = true ∧ tl = encodeBitCount k :: data :: rest := by
  unfold decodeBitsOut at h
  split at h
  · split at h <;> cases h
    refine ⟨_, _, rfl, ?_, ?_⟩
    · rw [bitCountOk_iff]
      omega
    · simp [encodeBitCount]
  · cases h

/-- An accepted bit-input form (R71, R73). -/
theorem decodeBitsIn_command {mk : Nat → Instr} {tl rest : List Byte} {i : Instr}
    (h : decodeBitsIn mk tl = .command i rest) :
    ∃ k, i = mk k ∧ bitCountOk k = true ∧ tl = encodeBitCount k :: rest := by
  unfold decodeBitsIn at h
  split at h
  · split at h <;> cases h
    refine ⟨_, rfl, ?_, ?_⟩
    · rw [bitCountOk_iff]
      omega
    · simp [encodeBitCount]
  · cases h

/-- An accepted bank form (R71). -/
theorem decodeBank_command {mk : Byte → Byte → Instr} {tl rest : List Byte} {i : Instr}
    (h : decodeBank mk tl = .command i rest) : ∃ value dir, i = mk value dir ∧ tl = value :: dir :: rest := by
  unfold decodeBank at h
  split at h <;> cases h
  exact ⟨_, _, rfl, rfl⟩

/-- An accepted divisor form (R71). -/
theorem decodeDivisor_command {tl rest : List Byte} {i : Instr} (h : decodeDivisor tl = .command i rest) :
    ∃ d, i = .setClockDivisor d ∧ tl = put16 d ++ rest := by
  unfold decodeDivisor at h
  split at h <;> cases h
  exact ⟨_, rfl, by simp [put16]⟩

end Sys2Proof
end

