-- ==== Sys2Proof/Laws/Runs.lean ====
section
/-! SUPPORT. Runs of the machine: `Reaches` is reflexive, takes one more step at its front, and composes. -/

namespace Sys2Proof.Machine

/-- A run of one step more begins with that step. -/
theorem run_succ {k : Nat} {s t : State} (h : step s = .next t) :
    Sys2Proof.core.run (k + 1) s = Sys2Proof.core.run k t := by
  have h' : Sys2Proof.core.step s = .next t := h
  simp only [Host.Core.run, h']

/-- A run of one step more that ends in a state took that step. -/
theorem run_succ_next {k : Nat} {s u : State} (h : Sys2Proof.core.run (k + 1) s = .next u) :
    ∃ t, step s = .next t ∧ Sys2Proof.core.run k t = .next u := by
  cases hs : step s with
  | next t => exact ⟨t, rfl, by rw [← run_succ hs, h]⟩
  | fault r =>
    have h' : Sys2Proof.core.step s = .fault r := hs
    simp [Host.Core.run, h'] at h
  | refused r =>
    have h' : Sys2Proof.core.step s = .refused r := hs
    simp [Host.Core.run, h'] at h

theorem Reaches.refl (s : State) : Reaches s s := ⟨0, rfl⟩

theorem Reaches.head {s t u : State} (h : step s = .next t) (hr : Reaches t u) : Reaches s u := by
  obtain ⟨k, hk⟩ := hr
  exact ⟨k + 1, by rw [run_succ h, hk]⟩

/-- One step is a run. -/
theorem Reaches.single {s t : State} (h : step s = .next t) : Reaches s t := Reaches.head h (Reaches.refl t)

theorem Reaches.trans {s t u : State} (h : Reaches s t) (h' : Reaches t u) : Reaches s u := by
  obtain ⟨k, hk⟩ := h
  induction k generalizing s with
  | zero => cases hk; exact h'
  | succ k ih =>
    obtain ⟨r, hr, hk⟩ := run_succ_next hk
    exact Reaches.head hr (ih hk)

/-- A command at the head of the command stream is one step of a run. -/
theorem Reaches.command {s t u : State} {i : Instr} {rest : List Byte} (hd : decode s.stream = .command i rest)
    (he : exec i (s.withStream rest) = .next t) (hr : Reaches t u) : Reaches s u := by
  refine Reaches.head ?_ hr
  rw [step, State.fetch_command hd]
  exact he

/-- A step of the one client that has one, while no command waits. -/
theorem Reaches.client {s u : State} {c : Nat} (hr : s.ready = [c]) (hs : s.stream = []) (hh : s.halted = false)
    (hu : Reaches (s.clientStep c) u) : Reaches s u :=
  Reaches.head (step_alone hr hs hh) hu

/-- The next action of the operation of the one client that has a step, while no command waits. -/
theorem Reaches.act {s u : State} {c : Nat} {cl : Client} {r : Running} {a : Act} {rest : List Act} (hr : s.ready = [c])
    (hs : s.stream = []) (hh : s.halted = false) (hcl : s.clients[c]? = some cl) (hrun : cl.running = some r)
    (ht : r.todo = a :: rest) (hu : Reaches (s.runAct c a rest) u) : Reaches s u := by
  refine Reaches.client hr hs hh ?_
  have h : s.clientStep c = s.runAct c a rest := by simp [State.clientStep, hcl, hrun, ht]
  rwa [h]

/-- The start of the next call of the one client that has a step, while no command waits. -/
theorem Reaches.call {s u : State} {c : Nat} {cl : Client} {call : Call} {calls : List Call} (hr : s.ready = [c])
    (hs : s.stream = []) (hh : s.halted = false) (hcl : s.clients[c]? = some cl) (hrun : cl.running = none)
    (hcs : cl.calls = call :: calls) (hu : Reaches (s.startCall c cl call calls) u) : Reaches s u := by
  refine Reaches.client hr hs hh ?_
  have h : s.clientStep c = s.startCall c cl call calls := by simp [State.clientStep, hcl, hrun, hcs]
  rwa [h]

end Sys2Proof.Machine
end

