-- ==== Sys2Proof/Laws/Operation.lean ====
section
/-! SUPPORT. One client's operation, step by step, while no other client has a step: the state in the middle of it is the
state before it with other parts and the client running. -/

namespace Sys2Proof.Machine

/-- The state `s` with client `c` in the operation `r`, otherwise as `cl`. -/
def State.during (s : State) (c : Nat) (cl : Client) (r : Running) : State :=
  s.setClient c { cl with running := some r }

/-- The state `s` with client `c` after its operation has returned `res`, otherwise as `cl`. -/
def State.returned (s : State) (c : Nat) (cl : Client) (res : Result) : State :=
  (s.onSession (Session.release c)).setClient c { cl with running := none, results := cl.results ++ [res] }

section
variable {s : State} {c : Nat} {cl : Client} {r : Running}

/-! ### The parts of the state in the middle -/

@[simp] theorem State.during_session : (s.during c cl r).session = s.session := rfl
@[simp] theorem State.during_device : (s.during c cl r).device = s.device := rfl
@[simp] theorem State.during_stream : (s.during c cl r).stream = s.stream := rfl
@[simp] theorem State.during_history : (s.during c cl r).history = s.history := rfl
@[simp] theorem State.during_oracle : (s.during c cl r).oracle = s.oracle := rfl
@[simp] theorem State.during_params : (s.during c cl r).params = s.params := rfl
@[simp] theorem State.during_clients :
    (s.during c cl r).clients = s.clients.set c { cl with running := some r } := rfl

theorem State.during_getElem? (hc : c < s.clients.length) :
    (s.during c cl r).clients[c]? = some { cl with running := some r } := by
  simp [hc]

/-- A change of the running client is a change of what runs. -/
theorem State.during_onClient (hc : c < s.clients.length) (f : Running → Running) :
    (s.during c cl r).onClient c (Client.onRunning f) = s.during c cl (f r) := by
  have hm := modify_eq_set (State.during_getElem? (cl := cl) (r := r) hc) (Client.onRunning f)
  rw [State.during_clients, List.set_set] at hm
  exact congrArg (fun l => { s with clients := l }) hm

theorem State.during_goOn (hc : c < s.clients.length) (todo : List Act) :
    (s.during c cl r).goOn c todo = s.during c cl { r with todo := todo } := State.during_onClient hc _

theorem State.during_setPhase (hc : c < s.clients.length) (ph : Phase) :
    (s.during c cl r).setPhase c ph = s.during c cl { r with phase := ph } := State.during_onClient hc _

theorem State.during_appendBuf (hc : c < s.clients.length) (bs : List Byte) :
    (s.during c cl r).appendBuf c bs = s.during c cl { r with buf := r.buf ++ bs } := State.during_onClient hc _

theorem State.during_bufOf (hc : c < s.clients.length) : (s.during c cl r).bufOf c = r.buf := by
  simp [State.bufOf, hc]

/-- The end of the operation: the lock is released and the result returned. -/
theorem State.during_finish (hc : c < s.clients.length) (res : Result) :
    (s.during c cl r).finish c res = s.returned c cl res := by
  have hm := modify_eq_set (State.during_getElem? (cl := cl) (r := r) hc) (Client.return res)
  rw [State.during_clients, List.set_set] at hm
  exact congrArg (fun l => { s.onSession (Session.release c) with clients := l }) hm

/-- A transport call does not see the clients. -/
theorem State.during_send (bs : List Byte) :
    (s.during c cl r).send c bs = ((s.send c bs).1, (s.send c bs).2.during c cl r) := by
  have hd : (s.during c cl r).drawOutcome = (s.drawOutcome.1, s.drawOutcome.2.during c cl r) := rfl
  unfold State.send
  rw [hd]
  obtain ⟨_ | e, s'⟩ := s.drawOutcome <;> rfl

theorem State.during_receiveOk (n : Nat) :
    (s.during c cl r).receiveOk c n = ((s.receiveOk c n).1, (s.receiveOk c n).2.during c cl r) := by
  unfold State.receiveOk
  by_cases hs : s.device.sync = true
  · rw [if_pos hs, if_pos (show (s.during c cl r).device.sync = true from hs)]
    by_cases hf : n ≤ s.device.flushed ∧ n ≤ s.device.rx.length
    · rw [if_pos hf]
      exact if_pos hf
    · rw [if_neg hf, if_neg (show ¬(n ≤ (s.during c cl r).device.flushed ∧ n ≤ (s.during c cl r).device.rx.length) from hf)]
      by_cases hl : n ≤ s.device.rx.length
      · rw [if_pos hl, if_pos (show n ≤ (s.during c cl r).device.rx.length from hl)]
        by_cases hb : s.drawCompletes.1 = true
        · rw [if_pos hb]
          exact if_pos hb
        · rw [if_neg hb]
          exact if_neg hb
      · rw [if_neg hl]
        exact if_neg hl
  · rw [if_neg hs, if_neg (show ¬(s.during c cl r).device.sync = true from hs)]
    by_cases hb : s.drawCompletes.1 = true
    · rw [if_pos hb]
      exact if_pos hb
    · rw [if_neg hb]
      exact if_neg hb

theorem State.during_receive (n : Nat) :
    (s.during c cl r).receive c n = ((s.receive c n).1, (s.receive c n).2.during c cl r) := by
  have hd : (s.during c cl r).drawOutcome = (s.drawOutcome.1, s.drawOutcome.2.during c cl r) := rfl
  unfold State.receive
  rw [hd]
  obtain ⟨_ | e, s'⟩ := s.drawOutcome
  · exact State.during_receiveOk n
  · rfl

/-! ### The actions -/

/-- A `Send` that succeeds: the operation goes on. -/
theorem State.during_sendThen {s' : State} {ph : Phase} {bs : List Byte} {onError : TransportError → Error}
    {rest : List Act} (hc : c < s.clients.length) (h : s.send c bs = (none, s')) :
    (s.during c cl r).sendThen c ph bs onError rest = s'.during c cl { r with phase := ph, todo := rest } := by
  have hc' : c < s'.clients.length := by rwa [show s' = (s.send c bs).2 by rw [h], (s.send_frame c bs).2.1]
  unfold State.sendThen
  rw [State.during_setPhase hc, State.during_send, h]
  exact State.during_goOn hc' rest

/-- A `Send` that fails ends the operation with its error. -/
theorem State.during_sendThen_error {s' : State} {ph : Phase} {bs : List Byte} {onError : TransportError → Error}
    {rest : List Act} {e : TransportError} (hc : c < s.clients.length) (h : s.send c bs = (some e, s')) :
    (s.during c cl r).sendThen c ph bs onError rest = s'.returned c cl (.err (onError e)) := by
  have hc' : c < s'.clients.length := by rwa [show s' = (s.send c bs).2 by rw [h], (s.send_frame c bs).2.1]
  unfold State.sendThen
  rw [State.during_setPhase hc, State.during_send, h]
  exact State.during_finish hc' _

/-- A `Receive` that completes. -/
theorem State.during_receiveThen {s' : State} {n : Nat} {bs : List Byte} {k : List Byte → State → State}
    (h : s.receive c n = (.bytes bs, s')) : (s.during c cl r).receiveThen c n k = k bs (s'.during c cl r) := by
  unfold State.receiveThen
  rw [State.during_receive, h]

/-- A `Receive` that fails ends the operation with its error. -/
theorem State.during_receiveThen_error {s' : State} {n : Nat} {e : TransportError} {k : List Byte → State → State}
    (hc : c < s.clients.length) (h : s.receive c n = (.failed e, s')) :
    (s.during c cl r).receiveThen c n k = s'.returned c cl (.err (.transport e)) := by
  have hc' : c < s'.clients.length := by rwa [show s' = (s.receive c n).2 by rw [h], (s.receive_frame c n).2.1]
  unfold State.receiveThen
  rw [State.during_receive, h]
  exact State.during_finish hc' _

end

/-! ### Runs -/

section
variable {s₀ s u : State} {c : Nat} {cl : Client} {r : Running} {a : Act} {rest : List Act}

/-- The next action of an operation that began, at `s₀`, with the other clients waiting and the lock free (or, for
`open`, without a session): it is still the only thing that can happen. -/
theorem Reaches.during (h₀ : s₀.ready = [c]) (hl : s₀.lockFree = true ∨ s₀.session = none)
    (hS : s.session.isSome = s₀.session.isSome) (hcs : s.clients = s₀.clients) (hs : s.stream = [])
    (hh : s.halted = false) (ht : r.todo = a :: rest) (hp : s.actPossible r = true)
    (hu : Reaches ((s.during c cl r).runAct c a rest) u) : Reaches (s.during c cl r) u := by
  have hc : c < s.clients.length := by
    obtain ⟨⟨x, hx, _⟩, _⟩ := State.ready_eq_singleton.1 h₀
    exact hcs ▸ (List.getElem?_eq_some_iff.1 hx).1
  have hcl := State.during_getElem? (cl := cl) (r := r) hc
  refine Reaches.act (State.ready_stays h₀ hl hS (fun d hd => ?_) hcl rfl ?_) hs hh hcl rfl ht hu
  · simp [hcs, List.getElem?_set_ne (Ne.symm hd)]
  · exact hp

/-- The start of a call that is an operation: all calls but teardown. -/
theorem Reaches.start {call : Call} {calls : List Call} (hr : s.ready = [c]) (hs : s.stream = [])
    (hh : s.halted = false) (hcl : s.clients[c]? = some cl) (hrun : cl.running = none) (hcs : cl.calls = call :: calls)
    (hne : call ≠ .teardown)
    (hu : Reaches (s.during c { cl.dropped call with calls := calls }
      ⟨call, .idle, planOf s.params cl call, [], false⟩) u) : Reaches s u := by
  refine Reaches.call hr hs hh hcl hrun hcs ?_
  cases call <;> first | exact absurd rfl hne | exact hu

end

/-! ### From a state that meets `Calling` -/

section
variable {s s' u : State} {S : Session} {c : Nat} {cl x : Client} {call : Call} {calls : List Call} {r : Running} {a : Act}
  {rest : List Act}

theorem Calling.lt (h : Calling s S c cl call calls) : c < s.clients.length := (List.getElem?_eq_some_iff.1 h.client).1

theorem Calling.lockFree (h : Calling s S c cl call calls) : s.lockFree = true := by
  simp [State.lockFree, h.session, h.lock]

/-- The call starts. -/
theorem Calling.start (h : Calling s S c cl call calls) (hne : call ≠ .teardown)
    (hu : Reaches (s.during c { cl.dropped call with calls := calls }
      ⟨call, .idle, planOf s.params cl call, [], false⟩) u) : Reaches s u :=
  Reaches.start h.alone h.stream h.halted h.client h.running h.calls hne hu

/-- The operation goes on, whatever has become of the session's content and of the chip. -/
theorem Calling.act (h : Calling s S c cl call calls) (hS : s'.session.isSome = true) (hcs : s'.clients = s.clients)
    (hs : s'.stream = []) (hh : s'.halted = false) (ht : r.todo = a :: rest) (hp : s'.actPossible r = true)
    (hu : Reaches ((s'.during c x r).runAct c a rest) u) : Reaches (s'.during c x r) u :=
  Reaches.during h.alone (.inl h.lockFree) (by rw [hS, h.session]; rfl) hcs hs hh ht hp hu

/-- A call whose first action takes the lock, after that action. -/
theorem Calling.locked (h : Calling s S c cl call calls) (hne : call ≠ .teardown)
    (hplan : planOf s.params cl call = .takeLock :: rest)
    (hu : Reaches (State.during { s with session := some (S.setLock (.held c)) } c { cl.dropped call with calls := calls }
      ⟨call, .idle, rest, [], false⟩) u) : Reaches s u := by
  refine h.start hne ?_
  rw [hplan]
  refine h.act (by rw [h.session]; rfl) rfl h.stream h.halted rfl (by simpa [State.actPossible] using h.lockFree) ?_
  have hg := State.during_goOn (s := s.onSession fun S => S.setLock (.held c)) (cl := { cl.dropped call with calls := calls })
    (r := ⟨call, .idle, .takeLock :: rest, [], false⟩) h.lt rest
  have hS : (s.onSession fun S => S.setLock (.held c)) = { s with session := some (S.setLock (.held c)) } := by
    simp [State.onSession, h.session]
  rw [hS] at hg
  exact (congrArg (Reaches · u) ((congrArg (fun t => State.goOn (State.during t c _ _) c rest) hS).trans hg)).mpr hu

/-- The end of an operation that holds the lock of `S`: the lock is free again. -/
theorem State.returned_locked {T : Session} (hT : s.session = some T) (hl : T.lock = .held c) (res : Result) :
    s.returned c x res = { s with
      session := some (T.setLock .free)
      clients := s.clients.set c { x with running := none, results := x.results ++ [res] } } := by
  simp [State.returned, State.setClient, State.onSession, hT, Session.release, hl]

end

end Sys2Proof.Machine
end

