-- ==== Sys2Proof/Laws/PerInstr.lean ====
section
/-! SUPPORT. The statements made once for each command. -/

namespace Sys2Proof.Laws.EncodeLength

/-- `cmdLen` of R77 gives the length of a command's bytes. -/
def Statement (i : Instr) : Prop := i.wellFormed = true → cmdLen (encode i) = some (encode i).length

/-- `cmdLen` of a clock-bytes command with a payload. -/
theorem of_payload (op : Byte) (p : List Byte)
    (hop : op ∈ ([0x10, 0x11, Config.opcInoutWfRr, Config.opcInoutWrRf] : List Byte)) (h : byteCountOk p.length = true) :
    cmdLen (op :: (encodeByteCount p.length ++ p)) = some (op :: (encodeByteCount p.length ++ p)).length := by
  have e := toNat_lengthField p.length h
  rw [encodeByteCount_eq]
  simp only [List.mem_cons, List.not_mem_nil, or_false] at hop
  rcases hop with rfl | rfl | rfl | rfl <;> simp [cmdLen, Config.opcInoutWfRr, Config.opcInoutWrRf] <;> omega

theorem msbBytesOutRising (p : List Byte) : Statement (.msbBytesOutRising p) := fun h => of_payload _ p (by simp [Instr.opcode]) h

theorem msbBytesOutFalling (p : List Byte) : Statement (.msbBytesOutFalling p) := fun h => of_payload _ p (by simp [Instr.opcode]) h

theorem msbBitsOutRising (k : Nat) (data : Byte) : Statement (.msbBitsOutRising k data) := fun _ => rfl

theorem msbBitsOutFalling (k : Nat) (data : Byte) : Statement (.msbBitsOutFalling k data) := fun _ => rfl

theorem msbBytesInRising (n : Nat) : Statement (.msbBytesInRising n) := fun _ => rfl

theorem msbBitsInRising (k : Nat) : Statement (.msbBitsInRising k) := fun _ => rfl

theorem msbBytesInFalling (n : Nat) : Statement (.msbBytesInFalling n) := fun _ => rfl

theorem msbBitsInFalling (k : Nat) : Statement (.msbBitsInFalling k) := fun _ => rfl

theorem msbBytesInoutWfRr (p : List Byte) : Statement (.msbBytesInoutWfRr p) := fun h => of_payload _ p (by simp [Instr.opcode]) h

theorem msbBytesInoutWrRf (p : List Byte) : Statement (.msbBytesInoutWrRf p) := fun h => of_payload _ p (by simp [Instr.opcode]) h

theorem setBitsLow (value dir : Byte) : Statement (.setBitsLow value dir) := fun _ => rfl

theorem getBitsLow : Statement (.getBitsLow) := fun _ => rfl

theorem setBitsHigh (value dir : Byte) : Statement (.setBitsHigh value dir) := fun _ => rfl

theorem getBitsHigh : Statement (.getBitsHigh) := fun _ => rfl

theorem loopbackEnable : Statement (.loopbackEnable) := fun _ => rfl

theorem loopbackDisable : Statement (.loopbackDisable) := fun _ => rfl

theorem setClockDivisor (d : Half) : Statement (.setClockDivisor d) := fun _ => rfl

theorem sendImmediate : Statement (.sendImmediate) := fun _ => rfl

theorem disableDiv5 : Statement (.disableDiv5) := fun _ => rfl

theorem enableDiv5 : Statement (.enableDiv5) := fun _ => rfl

theorem enable3Phase : Statement (.enable3Phase) := fun _ => rfl

theorem disable3Phase : Statement (.disable3Phase) := fun _ => rfl

theorem enableAdaptive : Statement (.enableAdaptive) := fun _ => rfl

theorem disableAdaptive : Statement (.disableAdaptive) := fun _ => rfl

end Sys2Proof.Laws.EncodeLength
end

