-- ==== Sys2Proof/Tests/Slice0.lean ====
section
/-! SUPPORT. Tests: the ill-formed terms that `wellFormed` refuses, one word of every command written out from
30_encoding.md and 41_command_encoder.md, single steps, and for every obligation with hypotheses a concrete case that
meets them. Expected values come from spec/, most from 95_test_vectors.md (named L2.2 E1 and so on). -/

namespace Sys2Proof.Machine

/-! ### Ill-formed terms (R72, R73) -/

theorem test_wf_bytes_out_rising_empty : (Instr.msbBytesOutRising []).wellFormed = false := by decide
theorem test_wf_bytes_out_falling_empty : (Instr.msbBytesOutFalling []).wellFormed = false := by decide
theorem test_wf_inout_wf_rr_empty : (Instr.msbBytesInoutWfRr []).wellFormed = false := by decide
theorem test_wf_inout_wr_rf_empty : (Instr.msbBytesInoutWrRf []).wellFormed = false := by decide
theorem test_wf_bytes_out_rising_long : (Instr.msbBytesOutRising (List.replicate 65537 0)).wellFormed = false := by
  simp only [Instr.wellFormed, byteCountOk, List.length_replicate]
  decide
theorem test_wf_bytes_out_falling_long : (Instr.msbBytesOutFalling (List.replicate 65537 0)).wellFormed = false := by
  simp only [Instr.wellFormed, byteCountOk, List.length_replicate]
  decide
theorem test_wf_inout_wf_rr_long : (Instr.msbBytesInoutWfRr (List.replicate 65537 0)).wellFormed = false := by
  simp only [Instr.wellFormed, byteCountOk, List.length_replicate]
  decide
theorem test_wf_inout_wr_rf_long : (Instr.msbBytesInoutWrRf (List.replicate 65537 0)).wellFormed = false := by
  simp only [Instr.wellFormed, byteCountOk, List.length_replicate]
  decide
theorem test_wf_bytes_in_rising :
    (Instr.msbBytesInRising 0).wellFormed = false ∧ (Instr.msbBytesInRising 65537).wellFormed = false := by decide
theorem test_wf_bytes_in_falling :
    (Instr.msbBytesInFalling 0).wellFormed = false ∧ (Instr.msbBytesInFalling 65537).wellFormed = false := by decide
theorem test_wf_bits_out_rising :
    (Instr.msbBitsOutRising 0 0).wellFormed = false ∧ (Instr.msbBitsOutRising 9 0).wellFormed = false := by decide
theorem test_wf_bits_out_falling :
    (Instr.msbBitsOutFalling 0 0).wellFormed = false ∧ (Instr.msbBitsOutFalling 9 0).wellFormed = false := by decide
theorem test_wf_bits_in_rising :
    (Instr.msbBitsInRising 0).wellFormed = false ∧ (Instr.msbBitsInRising 9).wellFormed = false := by decide
theorem test_wf_bits_in_falling :
    (Instr.msbBitsInFalling 0).wellFormed = false ∧ (Instr.msbBitsInFalling 9).wellFormed = false := by decide

/-! ### Decoding, one word of every command, and the encoder on it (L2.2) -/

theorem test_decode_10 : decode [0x10, 0x00, 0x00, 0xA5] = .command (.msbBytesOutRising [0xA5]) [] := by decide
theorem test_decode_11 :
    decode [0x11, 0x01, 0x00, 0x01, 0x02] = .command (.msbBytesOutFalling [0x01, 0x02]) [] := by decide
theorem test_decode_12 : decode [0x12, 0x07, 0xC3] = .command (.msbBitsOutRising 8 0xC3) [] := by decide
theorem test_decode_13 : decode [0x13, 0x00, 0x7F] = .command (.msbBitsOutFalling 1 0x7F) [] := by decide
theorem test_decode_20 : decode [0x20, 0x00, 0x00] = .command (.msbBytesInRising 1) [] := by decide
theorem test_decode_22 : decode [0x22, 0x00] = .command (.msbBitsInRising 1) [] := by decide
theorem test_decode_24 : decode [0x24, 0xFF, 0xFF] = .command (.msbBytesInFalling 65536) [] := by decide
theorem test_decode_26 : decode [0x26, 0x07] = .command (.msbBitsInFalling 8) [] := by decide
theorem test_decode_31 :
    decode [0x31, 0x01, 0x00, 0xA5, 0x5A] = .command (.msbBytesInoutWfRr [0xA5, 0x5A]) [] := by decide
theorem test_decode_34 : decode [0x34, 0x00, 0x00, 0x3C] = .command (.msbBytesInoutWrRf [0x3C]) [] := by decide
theorem test_decode_80 : decode [0x80, 0x00, 0xFB] = .command (.setBitsLow 0x00 0xFB) [] := by decide
theorem test_decode_81 : decode [0x81] = .command .getBitsLow [] := by decide
theorem test_decode_82 : decode [0x82, 0xA5, 0xFF] = .command (.setBitsHigh 0xA5 0xFF) [] := by decide
theorem test_decode_83 : decode [0x83] = .command .getBitsHigh [] := by decide
theorem test_decode_84 : decode [0x84] = .command .loopbackEnable [] := by decide
theorem test_decode_85 : decode [0x85] = .command .loopbackDisable [] := by decide
theorem test_decode_86 : decode [0x86, 0x2B, 0x01] = .command (.setClockDivisor 0x012B) [] := by decide
theorem test_decode_87 : decode [0x87] = .command .sendImmediate [] := by decide
theorem test_decode_8A : decode [0x8A] = .command .disableDiv5 [] := by decide
theorem test_decode_8B : decode [0x8B] = .command .enableDiv5 [] := by decide
theorem test_decode_8C : decode [0x8C] = .command .enable3Phase [] := by decide
theorem test_decode_8D : decode [0x8D] = .command .disable3Phase [] := by decide
theorem test_decode_96 : decode [0x96] = .command .enableAdaptive [] := by decide
theorem test_decode_97 : decode [0x97] = .command .disableAdaptive [] := by decide
/-- E22, and a bit-length byte of 30_encoding.md R73. -/
theorem test_decode_invalid :
    decode [0xFA] = .unknownOpcode 0xFA ∧ decode [0x22, 0x08] = .reservedBitLength 0x08 := by decide
/-- A command whose bytes are not all there (30_encoding.md R77). -/
theorem test_decode_truncated :
    decode [0x80, 0x00] = .truncated ∧ decode [0x31, 0x01, 0x00, 0xA5] = .truncated := by decide
/-- Commands follow each other without a gap (E23). -/
theorem test_decode_all :
    decodeAll [0x8A, 0x8B, 0x8C, 0x8D, 0x96, 0x97] =
      some [.disableDiv5, .enableDiv5, .enable3Phase, .disable3Phase, .enableAdaptive, .disableAdaptive] := by decide
/-- The opcode table's numbering: byte 0 in bits 7..0. -/
theorem test_table_words :
    decodeTableWord 24 0x012B86 = some (.setClockDivisor 0x012B) ∧
    decodeTableWord 32 0xA5000010 = some (.msbBytesOutRising [0xA5]) ∧
    decodeTableWord 8 0x83 = some .getBitsHigh := by decide

/-! ### The encoder (L2.2) -/

/-- E1, E2, E6, E9, E13, E18. -/
theorem test_encode :
    setBank .low 0x00 0xFB = [0x80, 0x00, 0xFB] ∧ setBank .high 0xA5 0xFF = [0x82, 0xA5, 0xFF] ∧
    setDivisor 0xFFFF = [0x86, 0xFF, 0xFF] ∧ clockBytes (.out [0x77]) .rising = some [0x10, 0x00, 0x00, 0x77] ∧
    clockBytes (.inout [0x01, 0x02]) .falling = some [0x31, 0x01, 0x00, 0x01, 0x02] ∧
    clockBitOut .falling 0x7F = [0x13, 0x00, 0x7F] := by decide
/-- E12, E15. -/
theorem test_encode_counts :
    clockBytes (.into 65536) .falling = some [0x24, 0xFF, 0xFF] ∧ clockBytes (.into 0) .rising = none ∧
    clockBytes (.into 65537) .rising = none := by decide
/-- L1.11. -/
theorem test_address_bytes : addrW 0x68 = 0xD0 ∧ addrR 0x68 = 0xD1 ∧ addrR 0x7F = 0xFF := by decide
/-- L1.10, the row of 20 MHz. -/
theorem test_divisor_m20 : divisorOf 20000000 = 1 ∧ divisorOf 400000 = 0x4A := by decide
/-- L2.6. -/
theorem test_error_codes :
    Error.code .busBusy = 4 ∧ Error.code .invalidClock = 3 ∧ Error.code .gpioInvalidPin = 7 ∧
    Error.code .spiModeNotSupported = 8 ∧ Error.code .invalidParams = 2 := by decide
/-- 30_encoding.md R78. -/
theorem test_written :
    (Instr.setBitsLow 0x03 0xFB).written = "SET_BITS_LOW 0x03, 0xFB" ∧
    (Instr.setClockDivisor 0x001D).written = "SET_CLOCK_DIVISOR 0x001D" := by decide

/-! ### Single steps -/

/-- A state with a given command stream, response bytes and transport outcomes. -/
def testState (stream resp : List Byte) (outcomes : List (Option TransportError)) : State :=
  { State.reset with
    stream := stream
    oracle := { Oracle.untouched with response := ⟨resp, 0⟩, outcome := ⟨outcomes, 0⟩ } }

/-- The device after one step, if there is one. -/
def deviceAfter (s : State) : Option Device :=
  match step s with
  | .next t => some t.device
  | _ => none

theorem test_step_set_bits_low :
    (deviceAfter (testState [0x80, 0x5A, 0x0F] [] [])).map (fun d => (d.latch.low, d.dir.low)) = some (0x5A, 0x0F) := by
  decide
theorem test_step_set_bits_high_keeps_low :
    (deviceAfter (testState [0x82, 0xA5, 0xFF] [] [])).map (fun d => (d.latch.high, d.latch.low)) = some (0xA5, 0x00) := by
  decide
theorem test_step_get_bits : (deviceAfter (testState [0x81, 0x87] [0x42] [])).map Device.rx = some [0x42] := by decide
theorem test_step_flush :
    (deviceAfter { testState [0x87] [] [] with device := { Device.afterOpen with rx := [1, 2] } }).map Device.flushed =
      some 2 := by decide
theorem test_step_div5 : (deviceAfter (testState [0x8B] [] [])).map Device.div5 = some true := by decide
theorem test_step_divisor :
    (deviceAfter (testState [0x86, 0x2B, 0x01] [] [])).map Device.divisor = some (some 0x012B) := by decide
/-- The payload comes back under loopback, whatever the next response bytes are (R159). -/
theorem test_step_duplex_loopback :
    (deviceAfter { testState [0x31, 0x01, 0x00, 0xDE, 0xAD] [1, 2] [] with
      device := { Device.afterOpen with loopback := true } }).map Device.rx = some [0xDE, 0xAD] := by decide
/-- Without loopback it does not (R160). -/
theorem test_step_duplex :
    (deviceAfter (testState [0x34, 0x00, 0x00, 0xA5] [0x3C] [])).map Device.rx = some [0x3C] := by decide
/-- `data[7]` is the one bit a one-bit output drives (E18). -/
theorem test_step_one_bit :
    (match step (testState [0x13, 0x00, 0x7F] [] []) with | .next t => t.serial | _ => []) =
      [⟨some (.falling, [false]), none⟩] := by decide
/-- The last of `k` bits sampled is bit 0 of the response byte (R156). -/
theorem test_step_bits_in :
    (match step (testState [0x22, 0x02] [0xF6] []) with | .next t => t.serial | _ => []) =
      [⟨none, some (.rising, [true, true, false])⟩] := by decide
/-- Bytes that are no command (E22). -/
theorem test_step_refused : step (testState [0xFA] [] []) = .refused (.unknownOpcode 0xFA) := rfl
/-- Nothing happens from reset (log 2). -/
theorem test_step_reset : step State.reset = .next State.reset := rfl
/-- `withFetchWord` places exactly the command (log 25). -/
theorem test_fetch_word : (State.reset.withFetchWord 24 0xFB0380).stream = [0x80, 0x03, 0xFB] := by decide

/-! ### Concrete cases that meet the hypotheses of the obligations -/

/-- A client that holds a handle of each kind and is about to make `call`. -/
def testClient (call : Call) : Client :=
  { Client.fresh with calls := [call], spi := [⟨.m1, .mode0⟩], i2c := [⟨.k100⟩], pins := [some ⟨.low, 4⟩] }

/-- The state in which that client is about to make `call`. -/
def testCalling (call : Call) (resp : List Byte) (outcomes : List (Option TransportError)) : State :=
  { testState [] resp outcomes with clients := [testClient call] }

/-- It meets `Calling`, for every call that has a step. -/
theorem witness_calling (call : Call) (resp : List Byte) (outcomes : List (Option TransportError))
    (hp : (testCalling call resp outcomes).callPossible (testClient call) call = true := by rfl) :
    Calling (testCalling call resp outcomes) Session.fresh 0 (testClient call) call [] where
  session := rfl
  lock := rfl
  client := rfl
  calls := rfl
  running := rfl
  alone := State.ready_eq_singleton.2 ⟨⟨_, rfl, hp⟩, fun d cl hd h => by
    obtain ⟨hd', _⟩ := List.getElem?_eq_some_iff.1 h
    exact absurd (Nat.lt_one_iff.1 hd') hd⟩
  stream := rfl
  halted := rfl

/-- Two clients that hold handles: the second is about to make `call`, the first has nothing to do. -/
def testSecond (call : Call) (outcomes : List (Option TransportError)) : State :=
  { testState [] [] outcomes with clients := [{ testClient .teardown with calls := [] }, testClient call] }

/-- A client other than the first can be the one that moves. -/
theorem witness_calling_second :
    Calling (testSecond (.setLoopback true) [none]) Session.fresh 1 (testClient (.setLoopback true)) (.setLoopback true) [] :=
  ⟨rfl, rfl, rfl, rfl, rfl, rfl, rfl, rfl⟩

/-- The device after `open` is in step with an empty queue. -/
theorem witness_quiet : Device.afterOpen.Quiet := ⟨rfl, rfl, rfl⟩

theorem witness_DecodeOfEncodeIsTheCommand :
    (Instr.msbBytesOutRising [0xA5]).wellFormed = true ∧ (Instr.msbBytesInRising 65536).wellFormed = true ∧
    (Instr.msbBitsInRising 1).wellFormed = true ∧ (Instr.msbBitsOutFalling 8 0).wellFormed = true := by decide

theorem witness_EncodeOfDecodeIsTheBytes : decode [0x86, 0x1D, 0x00, 0x87] = .command (.setClockDivisor 0x001D) [0x87] := by
  decide

theorem witness_InvalidBytesAreRefused :
    (0x88 : Byte) ∉ ([0x10, 0x11, 0x12, 0x13, 0x20, 0x22, 0x24, 0x26, 0x31, 0x34, 0x80, 0x81, 0x82, 0x83, 0x84, 0x85, 0x86,
      0x87, 0x8A, 0x8B, 0x8C, 0x8D, 0x96, 0x97] : List Byte) ∧
    (testState [0x88] [] []).stream = 0x88 :: [] ∧
    (8 ≤ (0x08 : Byte).toNat ∧ (testState [0x12, 0x08, 0xC3] [] []).stream = 0x12 :: 0x08 :: 0xC3 :: []) ∧
    (8 ≤ (0xFF : Byte).toNat ∧ (testState [0x22, 0xFF] [] []).stream = 0x22 :: 0xFF :: []) := by decide

/-- A command of each kind of opcode: bit 7 set, bit 7 clear. -/
theorem witness_OpcodeBitsSayWhatTheLinesDo :
    Instr.sendImmediate.opcode.getLsbD 7 = true ∧ (Instr.msbBytesInRising 1).opcode.getLsbD 7 = false := by decide

theorem witness_BankSetWritesItsWholeBank : Bank.high ≠ Bank.low := by decide

theorem witness_GetBitsAppendsOneFreeByte : ∃ i : Instr, i = .getBitsLow ∨ i = .getBitsHigh := ⟨_, .inr rfl⟩

theorem witness_SetClockDivisorStoresDivisor :
    State.reset.device.div5 = false ∧ State.reset.device.threePhase = false ∧ State.reset.device.adaptive = false := by
  decide

theorem witness_BitsOutDriveTheTopBits : (1 ≤ 1 ∧ 1 ≤ 8) ∧ (1 ≤ 8 ∧ 8 ≤ 8) := by decide

theorem witness_BitsInAppendOneFreeByte : (1 ≤ 1 ∧ 1 ≤ 8) ∧ (1 ≤ 8 ∧ 8 ≤ 8) := by decide

theorem witness_FullDuplexUnderLoopbackEchoes :
    ∃ s : State, s.device.loopback = true ∧ s.device.sync = true :=
  ⟨{ State.reset with device := { Device.afterOpen with loopback := true } }, rfl, rfl⟩

theorem witness_FullDuplexOtherwiseAppendsFreeBytes :
    ¬(State.reset.device.loopback = true ∧ State.reset.device.sync = true) := by decide

/-- Out of step, loopback does not fix the bytes. -/
theorem witness_FullDuplexOtherwiseAppendsFreeBytes_desync :
    ¬(true = true ∧ ({ Device.afterOpen with loopback := true, sync := false } : Device).sync = true) := by decide

theorem witness_ResponseBytesCanBeAnything :
    ([1, 2] : List Byte).length = (Instr.msbBytesInoutWfRr [3, 4]).responses ∧
    (State.reset.device.loopback && State.reset.device.sync) = false ∧
    ([] : List Byte).length = Instr.sendImmediate.responses := by decide

theorem witness_CommandsAppendTheirResponseCount :
    (∃ t, exec (.msbBitsInRising 8) State.reset = .next t) ∧ Instr.msbBitsInRising 8 ≠ .sendImmediate :=
  ⟨exec_next _ _, by decide⟩

theorem witness_StepRunsTheDecodedCommand :
    decode (testState [0x84, 0x85] [] []).stream = .command .loopbackEnable [0x85] := by decide

theorem witness_StreamRunsInOrder :
    ∀ i ∈ [Instr.setBitsLow 0x00 0xFB, .msbBitsInRising 1, .sendImmediate], i.wellFormed = true := by decide

theorem witness_SendAppendsToStreamOrHavocksDevice :
    (testState [] [] [none]).oracle.outcome.given = none :: [] ∧
    (testState [] [] [some ⟨5⟩]).oracle.outcome.given = some ⟨5⟩ :: [] := by decide

/-- At both ends of the range of `n`. -/
theorem witness_ReceiveTakesFromTheFront :
    ∃ s : State, s.oracle.outcome.given = none :: [] ∧ s.device.sync = true ∧ 0 ≤ s.device.flushed ∧
      2 ≤ s.device.flushed ∧ s.device.flushed ≤ s.device.rx.length :=
  ⟨{ testState [] [] [none] with device := { Device.afterOpen with rx := [1, 2], flushed := 2 } }, by decide⟩

/-- One held byte, none, and a device out of step. -/
theorem witness_ReceiveThatMayHangAndStuckStep :
    ∃ s s' s'' : State,
      (s.oracle.outcome.given = none :: [] ∧ s.oracle.completes.given = true :: [] ∧ s.device.sync = true ∧
        1 ≤ s.device.rx.length ∧ s.device.flushed < 1) ∧
      (s'.oracle.outcome.given = none :: [] ∧ s'.oracle.completes.given = true :: [] ∧ s'.device.sync = true ∧
        s'.device.rx.length < 1) ∧
      (s''.oracle.outcome.given = none :: [] ∧ s''.oracle.completes.given = true :: [] ∧ s''.device.sync = false ∧
        ([7] : List Byte).length = 1 ∧ s''.oracle.response.given = [7] ++ []) := by
  let o : Oracle := { Oracle.untouched with response := ⟨[7], 0⟩, outcome := ⟨[none], 0⟩, completes := ⟨[true], 0⟩ }
  exact ⟨{ State.reset with oracle := o, device := { Device.afterOpen with rx := [1] } }, { State.reset with oracle := o },
    { State.reset with oracle := o, device := { Device.afterOpen with sync := false } }, by decide⟩

/-- A client whose only call has no step: the machine is stuck (log 8, 16). -/
theorem witness_ReceiveThatMayHangAndStuckStep_stuck :
    step { State.reset with clients := [{ Client.fresh with calls := [.spiWrite 0 [1]] }] } = .fault .stuck := rfl

theorem witness_FailedReceiveLosesSomeBytes : (testState [] [] [some ⟨1⟩]).oracle.outcome.given = some ⟨1⟩ :: [] := rfl

/-- A machine at launch: no session, one client about to call `open`. -/
def testLaunch (clean opens : Bool) (outcome : Option TransportError) : State :=
  { State.reset with
    params := { Params.standard with openClean := clean }
    session := none
    clients := [{ Client.fresh with calls := [.openSession] }]
    oracle := { Oracle.untouched with opens := ⟨[opens], 0⟩, outcome := ⟨[outcome], 0⟩ } }

/-- With `OPEN_CLEAN` and without it. -/
theorem witness_OpenReachesTheResetState (clean : Bool) :
    ∃ (s : State) (cl : Client), s.params.openClean = clean ∧ s.session = none ∧ s.clients[0]? = some cl ∧
      cl.calls = .openSession :: [] ∧ cl.running = none ∧ s.ready = [0] ∧ s.stream = [] ∧ s.halted = false ∧
      s.oracle.opens.given = true :: [] ∧ s.oracle.outcome.given = none :: [] :=
  ⟨testLaunch clean true none, _, rfl, rfl, rfl, rfl, rfl, rfl, rfl, rfl, rfl, rfl⟩

/-- Both clauses: the device does not open; it opens and the `Send` fails. -/
theorem witness_OpenFailureLeavesNoSession (opens : Bool) :
    ∃ (s : State) (cl : Client), s.session = none ∧ s.clients[0]? = some cl ∧ cl.calls = .openSession :: [] ∧
      cl.running = none ∧ s.ready = [0] ∧ s.stream = [] ∧ s.halted = false ∧ s.oracle.opens.given = opens :: [] ∧
      s.oracle.outcome.given = some ⟨2⟩ :: [] :=
  ⟨testLaunch true opens (some ⟨2⟩), _, rfl, rfl, rfl, rfl, rfl, rfl, rfl, rfl, rfl⟩

theorem witness_SetLoopbackWritesFlagAndSends :
    Calling (testCalling (.setLoopback true) [] [none]) Session.fresh 0 (testClient (.setLoopback true)) (.setLoopback true) [] ∧
    (testCalling (.setLoopback true) [] [none]).oracle.outcome.given = none :: [] ∧
    (testCalling (.setLoopback true) [] [some ⟨3⟩]).oracle.outcome.given = some ⟨3⟩ :: [] :=
  ⟨witness_calling _ _ _, rfl, rfl⟩

theorem witness_DivisorFormulaRoundsToNearest : 0 < 1 ∧ 1 ≤ 60000000 ∧ 0 < 60000000 ∧ 60000000 ≤ 60000000 := by decide

theorem witness_SpeedClassesDivisorsAndCompatibility :
    Device.afterOpen.div5 = false ∧ Device.afterOpen.threePhase = false ∧ Device.afterOpen.adaptive = false ∧
    SpiSpeed.m20 ≠ .auto ∧ I2cSpeed.k400 ≠ .auto := by decide

/-- The client about to request a bus, on a session whose bus is `mode`. -/
theorem witness_calling_mode (mode : BusMode) (outcomes : List (Option TransportError)) :
    Calling { testCalling (.requestSpi .auto) [] outcomes with session := some (Session.fresh.setBusMode mode) }
      (Session.fresh.setBusMode mode) 0 (testClient (.requestSpi .auto)) (.requestSpi .auto) [] ∧
    Calling { testCalling (.requestI2c .auto) [] outcomes with session := some (Session.fresh.setBusMode mode) }
      (Session.fresh.setBusMode mode) 0 (testClient (.requestI2c .auto)) (.requestI2c .auto) [] :=
  ⟨⟨rfl, rfl, rfl, rfl, rfl, rfl, rfl, rfl⟩, ⟨rfl, rfl, rfl, rfl, rfl, rfl, rfl, rfl⟩⟩

/-- With `witness_calling_mode`: the bus modes and the compatibilities of the five clauses. -/
theorem witness_RequestSpiFollowsBusMode :
    (Session.fresh.setBusMode (.i2c .k100)).busMode = .i2c .k100 ∧
    ((Session.fresh.setBusMode (.spi .m1)).busMode = .spi .m1 ∧ SpiSpeed.m1.compatible .m3 = false ∧
      SpiSpeed.m1.compatible .auto = true) ∧
    (Session.fresh.busMode = .uncommitted ∧ (testCalling (.requestSpi .m1) [] [none]).oracle.outcome.given = none :: [] ∧
      (testCalling (.requestSpi .m1) [] [some ⟨1⟩]).oracle.outcome.given = some ⟨1⟩ :: []) := by decide

/-- With `witness_calling_mode`: the bus modes and the compatibilities of the five clauses. -/
theorem witness_RequestI2cFollowsBusMode :
    (Session.fresh.setBusMode (.spi .m1)).busMode = .spi .m1 ∧
    ((Session.fresh.setBusMode (.i2c .k100)).busMode = .i2c .k100 ∧ I2cSpeed.k100.compatible .k400 = false ∧
      I2cSpeed.k100.compatible .auto = true) ∧
    (Session.fresh.busMode = .uncommitted ∧ (testCalling (.requestI2c .auto) [] [none]).oracle.outcome.given = none :: [] ∧
      (testCalling (.requestI2c .auto) [] [some ⟨1⟩]).oracle.outcome.given = some ⟨1⟩ :: []) := by decide

/-- The ends of the two ranges of bits, and the bits just outside. -/
theorem witness_NamedPinsAreTheValidDescriptors :
    pinValid 4 .low = true ∧ pinValid 7 .low = true ∧ pinValid 0 .high = true ∧ pinValid 7 .high = true ∧
    pinValid 3 .low = false ∧ pinValid 8 .low = false ∧ pinValid 8 .high = false := by decide

/-- With `witness_calling`: an invalid descriptor, an available pin, and one handed out before. -/
theorem witness_AcquirePinChecksThenClaims :
    pinValid 8 .low = false ∧
    (pinValid 7 .high = true ∧ Session.fresh.available (pinIndex 7 .high) = true) ∧
    (pinValid 7 .high = true ∧ (Session.fresh.setAvailable 11 false).available (pinIndex 7 .high) = false) := by decide

/-- The client about to acquire a pin that was handed out before. -/
theorem witness_AcquirePinChecksThenClaims_busy :
    Calling { testCalling (.acquirePin 7 .high) [] [] with session := some (Session.fresh.setAvailable 11 false) }
      (Session.fresh.setAvailable 11 false) 0 (testClient (.acquirePin 7 .high)) (.acquirePin 7 .high) [] :=
  ⟨rfl, rfl, rfl, rfl, rfl, rfl, rfl, rfl⟩

theorem witness_PinLifetimeEndReleasesOnlyIfConfigured :
    Calling (testCalling (.dropPin 0) [] []) Session.fresh 0 (testClient (.dropPin 0)) (.dropPin 0) [] ∧
    (testClient (.dropPin 0)).pin 0 = some ⟨.low, 4⟩ := ⟨witness_calling _ _ _, rfl⟩

/-- The second of two clients with handles tears down; without a session a client about to call something else than
`open`. -/
theorem witness_TeardownEndsSessionAndHandles :
    Calling (testSecond .teardown []) Session.fresh 1 (testClient .teardown) .teardown [] ∧
    (testLaunch true true none).session = none ∧ Call.setLoopback true ≠ .openSession :=
  ⟨⟨rfl, rfl, rfl, rfl, rfl, rfl, rfl, rfl⟩, rfl, by decide⟩

/-- L1.11: the ends of the 7-bit addresses. -/
theorem witness_AckBitAndAddressByte : (0x00 : Byte).toNat ≤ 0x7F ∧ (0x7F : Byte).toNat ≤ 0x7F := by decide

/-- I1, at the last 7-bit address. -/
theorem witness_I2cWriteAcknowledged :
    ∃ s : State, Calling s Session.fresh 0 (testClient (.i2cWrite 0 0x7F [0x42])) (.i2cWrite 0 0x7F [0x42]) [] ∧
      0 < (testClient (.i2cWrite 0 0x7F [0x42])).i2c.length ∧ s.device.Quiet ∧ ([0x42] : List Byte) ≠ [] ∧
      (s.params.i2cAddrPolicy = .reject → (0x7F : Byte).toNat ≤ 0x7F) ∧
      ([0xFE, 0x00] : List Byte).length = ([0x42] : List Byte).length + 1 ∧
      (∀ a ∈ ([0xFE, 0x00] : List Byte), a.getLsbD 0 = false) ∧ s.oracle.response.given = [0xFE, 0x00] ++ [] ∧
      s.oracle.outcome.given = List.replicate (2 * ([0x42] : List Byte).length + 4) none ++ [] :=
  ⟨testCalling (.i2cWrite 0 0x7F [0x42]) [0xFE, 0x00] (List.replicate 6 none), witness_calling _ _ _, by decide,
    witness_quiet, by decide, by decide, by decide, by decide, rfl, rfl⟩

/-- The write part: I3 and I4, the address not acknowledged, and the first of two data bytes; and the address of an
`i2c.writeThenRead`. -/
theorem witness_I2cNotAcknowledged_write :
    ∃ s s' s'' : State,
      (Calling s Session.fresh 0 (testClient (.i2cWrite 0 0x51 [0x42])) (.i2cWrite 0 0x51 [0x42]) [] ∧ s.device.Quiet ∧
        ((0x51 : Byte) <<< 1) :: [0x42] = [] ++ 0xA2 :: [0x42] ∧ (0x01 : Byte).getLsbD 0 = true ∧
        s.oracle.response.given = [] ++ 0x01 :: [] ∧ s.oracle.outcome.given = List.replicate 4 none ++ []) ∧
      (Calling s' Session.fresh 0 (testClient (.i2cWrite 0 0x50 [1, 2])) (.i2cWrite 0 0x50 [1, 2]) [] ∧ s'.device.Quiet ∧
        ((0x50 : Byte) <<< 1) :: [1, 2] = [0xA0] ++ 0x01 :: [0x02] ∧ (0x00 : Byte).getLsbD 0 = false ∧
        s'.oracle.response.given = [0x00] ++ 0x01 :: [] ∧ s'.oracle.outcome.given = List.replicate 6 none ++ []) ∧
      (Calling s'' Session.fresh 0 (testClient (.i2cWriteThenRead 0 0x51 [1] 1)) (.i2cWriteThenRead 0 0x51 [1] 1) [] ∧
        s''.device.Quiet ∧ ((0x51 : Byte) <<< 1) :: [1] = [] ++ 0xA2 :: [1] ∧
        s''.oracle.response.given = [] ++ 0x01 :: [] ∧ s''.oracle.outcome.given = List.replicate 4 none ++ []) :=
  ⟨testCalling _ [0x01] (List.replicate 4 none), testCalling _ [0x00, 0x01] (List.replicate 6 none),
    testCalling _ [0x01] (List.replicate 4 none),
    ⟨witness_calling _ _ _, witness_quiet, by decide, by decide, rfl, rfl⟩,
    ⟨witness_calling _ _ _, witness_quiet, by decide, by decide, rfl, rfl⟩,
    ⟨witness_calling _ _ _, witness_quiet, by decide, rfl, rfl⟩⟩

/-- The read address: I12, and that of an `i2c.writeThenRead` whose write part is acknowledged (I17). -/
theorem witness_I2cNotAcknowledged_read :
    ∃ s s' : State, 0 < (testClient .teardown).i2c.length ∧ (0x01 : Byte).getLsbD 0 = true ∧
      (State.reset.params.i2cAddrPolicy = .reject → (0x51 : Byte).toNat ≤ 0x7F) ∧
      (Calling s Session.fresh 0 (testClient (.i2cRead 0 0x51 1)) (.i2cRead 0 0x51 1) [] ∧ s.device.Quiet ∧
        s.oracle.response.given = [] ++ 0x01 :: [] ∧ s.oracle.outcome.given = List.replicate 4 none ++ []) ∧
      (Calling s' Session.fresh 0 (testClient (.i2cWriteThenRead 0 0x50 [0x10] 1)) (.i2cWriteThenRead 0 0x50 [0x10] 1) [] ∧
        s'.device.Quiet ∧ ([0x00, 0x00] : List Byte).length = ([0x10] : List Byte).length + 1 ∧
        (∀ a ∈ ([0x00, 0x00] : List Byte), a.getLsbD 0 = false) ∧
        s'.oracle.response.given = [0x00, 0x00] ++ 0x01 :: [] ∧ s'.oracle.outcome.given = List.replicate 9 none ++ []) :=
  ⟨testCalling _ [0x01] (List.replicate 4 none), testCalling _ [0x00, 0x00, 0x01] (List.replicate 9 none), by decide,
    by decide, by decide, ⟨witness_calling _ _ _, witness_quiet, rfl, rfl⟩,
    ⟨witness_calling _ _ _, witness_quiet, by decide, by decide, rfl, rfl⟩⟩

/-- I10. -/
theorem witness_I2cReadAcknowledged :
    ∃ s : State, Calling s Session.fresh 0 (testClient (.i2cRead 0 0x50 1)) (.i2cRead 0 0x50 ([0x5A] : List Byte).length) [] ∧
      0 < (testClient (.i2cRead 0 0x50 1)).i2c.length ∧ s.device.Quiet ∧ ([0x5A] : List Byte) ≠ [] ∧
      (s.params.i2cAddrPolicy = .reject → (0x50 : Byte).toNat ≤ 0x7F) ∧ (0x00 : Byte).getLsbD 0 = false ∧
      s.oracle.response.given = 0x00 :: [0x5A] ++ [] ∧
      s.oracle.outcome.given = List.replicate (2 * ([0x5A] : List Byte).length + 4) none ++ [] :=
  ⟨testCalling (.i2cRead 0 0x50 1) [0x00, 0x5A] (List.replicate 6 none), witness_calling _ _ _, by decide, witness_quiet,
    by decide, by decide, by decide, rfl, rfl⟩

/-- I16, with one byte read. -/
theorem witness_I2cWriteThenReadAcknowledged :
    ∃ s : State,
      Calling s Session.fresh 0 (testClient (.i2cWriteThenRead 0 0x50 [0x10] 1))
        (.i2cWriteThenRead 0 0x50 [0x10] ([0xAA] : List Byte).length) [] ∧
      0 < (testClient (.i2cWriteThenRead 0 0x50 [0x10] 1)).i2c.length ∧ s.device.Quiet ∧
      (s.params.i2cAddrPolicy = .reject → (0x50 : Byte).toNat ≤ 0x7F) ∧
      ([0x00, 0x00] : List Byte).length = ([0x10] : List Byte).length + 1 ∧
      (∀ a ∈ ([0x00, 0x00] : List Byte), a.getLsbD 0 = false) ∧ (0x00 : Byte).getLsbD 0 = false ∧
      s.oracle.response.given = [0x00, 0x00] ++ 0x00 :: [0xAA] ++ [] ∧
      s.oracle.outcome.given =
        List.replicate (2 * ([0x10] : List Byte).length + 2 * ([0xAA] : List Byte).length + 7) none ++ [] :=
  ⟨testCalling (.i2cWriteThenRead 0 0x50 [0x10] 1) [0x00, 0x00, 0x00, 0xAA] (List.replicate 11 none),
    witness_calling _ _ _, by decide, witness_quiet, by decide, by decide, by decide, by decide, rfl, rfl⟩

/-- A client in an operation with the actions `todo`, holding the lock. -/
def testHolding (todo : List Act) (outcomes : List (Option TransportError)) : State :=
  { testState [] [] outcomes with
    session := some (Session.fresh.setLock (.held 0))
    clients := [{ testClient .teardown with calls := [], running := some ⟨.i2cRead 0 0x50 1, .read, todo, [], false⟩ }] }

/-- An operation in progress, while which teardown has no step. -/
theorem witness_TeardownEndsSessionAndHandles_busy :
    ∃ (x : Client) (r : Running), x ∈ (testHolding [.doneRead] []).clients ∧ x.running = some r :=
  ⟨_, _, List.mem_singleton_self _, rfl⟩

/-- One case of each action that makes a transport call, and the STOP after a NACK. -/
theorem witness_TransportErrorEndsTheOperation :
    ∀ todo ∈ [[Act.send .stop i2cStop, .doneRead], [.ack, .doneRead], [.read 1, .doneRead],
        [.readBank .high 0 true], [.stopAfterNack, .raise .i2cNoAck]],
      (testHolding todo [some ⟨4⟩]).session = some (Session.fresh.setLock (.held 0)) ∧
      (Session.fresh.setLock (.held 0)).lock = .held 0 ∧
      ((testHolding todo [some ⟨4⟩]).clients[0]?.bind Client.running).map Running.todo = some todo ∧
      (testHolding todo [some ⟨4⟩]).ready = [0] ∧ (testHolding todo [some ⟨4⟩]).stream = [] ∧
      (testHolding todo [some ⟨4⟩]).halted = false ∧
      (testHolding todo [some ⟨4⟩]).oracle.outcome.given = some ⟨4⟩ :: [] := by decide

/-- With `witness_calling`: I7, I8, I13, I14, P5. -/
theorem witness_ArgumentChecksComeBeforeTheTransport :
    0 < (testClient .teardown).i2c.length ∧ 0 < (testClient .teardown).spi.length ∧
    (([] : List Byte) = [] ∨ 1 = 0) ∧ (([0] : List Byte) = [] ∨ 0 = 0) ∧
    (State.reset.params.i2cAddrPolicy = .reject ∧ 0x7F < (0x80 : Byte).toNat ∧ ([1] : List Byte) ≠ [] ∧ 0 < 1) ∧
    65536 < (List.replicate 65537 (0 : Byte)).length := by
  refine ⟨by decide, by decide, by decide, by decide, by decide, ?_⟩
  rw [List.length_replicate]
  omega

theorem witness_SetModeAcceptsModes0And2 (cpol cpha : Bool) :
    Calling (testCalling (.spiSetMode 0 cpol cpha) [] []) Session.fresh 0 (testClient (.spiSetMode 0 cpol cpha))
      (.spiSetMode 0 cpol cpha) [] ∧ 0 < (testClient (.spiSetMode 0 cpol cpha)).spi.length :=
  ⟨witness_calling _ _ _, Nat.one_pos⟩

/-- P2; and the longest payload of P4. -/
theorem witness_SpiTransferExchangesPayload :
    Calling (testCalling (.spiTransfer 0 [0xA5]) [0x3C] [none, none]) Session.fresh 0 (testClient (.spiTransfer 0 [0xA5]))
      (.spiTransfer 0 [0xA5]) [] ∧
    (testClient (.spiTransfer 0 [0xA5])).spi[0]? = some ⟨.m1, .mode0⟩ ∧ Device.afterOpen.Quiet ∧
    ([0xA5] : List Byte) ≠ [] ∧ ([0xA5] : List Byte).length ≤ 65536 ∧ (List.replicate 65536 (0 : Byte)).length ≤ 65536 ∧
    (testCalling (.spiTransfer 0 [0xA5]) [0x3C] [none, none]).oracle.outcome.given = none :: none :: [] :=
  ⟨witness_calling _ _ _, rfl, witness_quiet, by decide, by decide, by rw [List.length_replicate], rfl⟩

/-- P6. -/
theorem witness_SpiWriteSendsPayload :
    Calling (testCalling (.spiWrite 0 [1, 2]) [] [none]) Session.fresh 0 (testClient (.spiWrite 0 [1, 2]))
      (.spiWrite 0 [1, 2]) [] ∧
    (testClient (.spiWrite 0 [1, 2])).spi[0]? = some ⟨.m1, .mode0⟩ ∧ ([1, 2] : List Byte) ≠ [] ∧
    ([1, 2] : List Byte).length ≤ 65536 ∧ (testCalling (.spiWrite 0 [1, 2]) [] [none]).oracle.outcome.given = none :: [] :=
  ⟨witness_calling _ _ _, rfl, by decide, by decide, rfl⟩

/-- A pin of the low bank, at the first bit of its range; both levels. -/
theorem witness_GpioSetWritesBackTheByteRead (level : Bool) :
    ∃ s : State, Calling s Session.fresh 0 (testClient (if level then .gpioSetHigh 0 else .gpioSetLow 0))
        (if level then .gpioSetHigh 0 else .gpioSetLow 0) [] ∧
      (testClient (if level then .gpioSetHigh 0 else .gpioSetLow 0)).pin 0 = some ⟨.low, 4⟩ ∧ s.device.Quiet ∧
      pinValid 4 .low = true ∧ s.oracle.outcome.given = none :: none :: none :: [] ∧
      s.oracle.response.given = 0x14 :: [] :=
  ⟨testCalling _ [0x14] [none, none, none], witness_calling _ _ _ (by cases level <;> rfl), rfl, witness_quiet, rfl, rfl, rfl⟩

/-- G7: the two clients of the lost update, their pins handed out. -/
theorem witness_GpioLostUpdate :
    ∃ (s : State) (S : Session), s.params.gpioRmwAtomic = false ∧ s.session = some S ∧ S.lock = .free ∧ s.device.Quiet ∧
      s.stream = [] ∧ s.halted = false ∧ s.history = [] ∧
      s.clients = [{ Client.fresh with calls := [.gpioSetHigh 0], pins := [some ⟨.high, 0⟩] },
        { Client.fresh with calls := [.gpioSetHigh 0], pins := [some ⟨.high, 1⟩] }] ∧
      s.oracle.response.given = [0x00, 0x00] ∧ s.oracle.outcome.given = List.replicate 6 none :=
  ⟨{ testState [] [0x00, 0x00] (List.replicate 6 none) with
      session := some ((Session.fresh.setAvailable 4 false).setAvailable 5 false)
      clients := [{ Client.fresh with calls := [.gpioSetHigh 0], pins := [some ⟨.high, 0⟩] },
        { Client.fresh with calls := [.gpioSetHigh 0], pins := [some ⟨.high, 1⟩] }] },
    _, rfl, rfl, rfl, witness_quiet, rfl, rfl, rfl, rfl, rfl, rfl⟩

/-! The invariants' statements: a state in the middle of an operation that meets the invariant and has a step. -/

/-- One client about to take the lock for a `requestSpi` on a committed SPI bus, holding the pin handle of `PL0`. -/
def testBusy : State :=
  { testState [] [] [none] with
    session := some ((Session.fresh.setAvailable 0 false).setBusMode (.spi .m1))
    clients := [{ testClient .teardown with
      calls := [], running := some ⟨.requestSpi .m1, .idle, requestSpiPlan .m1, [], false⟩ }] }

/-- It has a step. -/
theorem witness_step : ∃ t, step testBusy = .next t := ⟨_, rfl⟩

/-- Its one client. -/
theorem testBusy_client {c : Nat} {cl : Client} (h : testBusy.clients[c]? = some cl) :
    cl.running = some ⟨.requestSpi .m1, .idle, requestSpiPlan .m1, [], false⟩ := by
  match c with
  | 0 => cases h; rfl
  | _ + 1 => cases h

theorem witness_StepKeepsTheLockDiscipline : LockInv testBusy := by
  have hf : ∀ c, testBusy.holds c = false := fun _ => rfl
  refine ⟨fun c cl r hc hr => ?_, fun c h => by rw [hf] at h; cases h⟩
  rw [testBusy_client hc] at hr
  cases hr
  rw [hf]
  rfl

theorem witness_StepKeepsTheBusInvariant :
    BusInv testBusy ∧ ∃ S, testBusy.session = some S ∧ S.busMode ≠ .uncommitted := by
  refine ⟨⟨witness_StepKeepsTheLockDiscipline, fun c cl r hc hr h => ?_, fun S hS => ?_⟩, _, rfl, by decide⟩
  · rw [testBusy_client hc] at hr
    cases hr
    exact absurd rfl h
  · cases hS
    rfl

theorem witness_StepKeepsThePinInvariant : PinInv testBusy := by
  refine ⟨by decide, fun i hi => ⟨_, rfl, ?_⟩⟩
  have h : i = 0 := by simpa using (show i ∈ [0] from hi)
  rw [h]
  rfl

theorem witness_StepKeepsTheQueueWellFormed : testBusy.device.queueOk := Nat.le_refl _

theorem witness_PinsAreNeverReleased :
    testBusy.params.pinRelease = false ∧ (∀ cl ∈ testBusy.clients, cl.pinsReturning = []) ∧
    ∃ S, testBusy.session = some S ∧ S.available 0 = false := ⟨rfl, by decide, _, rfl, by decide⟩

/-- The premises of the last clauses: a session whose device is out of step, and one whose divisor has a number. -/
theorem witness_StepKeepsParametersHistorySyncAndDivisor :
    ∃ (s t : State) (S : Session), step s = .next t ∧ s.session = some S ∧ s.device.sync = false ∧
      s.device.divisor ≠ none :=
  ⟨{ State.reset with device := { Device.afterOpen with sync := false, divisor := some 0x001D } }, _, _, rfl, rfl, rfl,
    by decide⟩

/-- A step that makes a transport event, by the holder of the lock. -/
theorem witness_TransportEventsNeedTheLock :
    ∃ t, step (testHolding [.send .stop i2cStop, .doneRead] [none]) = .next t ∧
      t.history = (testHolding [.send .stop i2cStop, .doneRead] [none]).history ++ [.send 0 i2cStop none] := ⟨_, rfl, rfl⟩

/-- And that state keeps the lock discipline. -/
theorem witness_TransportEventsNeedTheLock_inv : LockInv (testHolding [.send .stop i2cStop, .doneRead] [none]) := by
  refine ⟨fun c cl r hc hr => ?_, fun c h => ?_⟩
  · match c with
    | 0 => cases hc; cases hr; rfl
    | _ + 1 => cases hc
  · match c with
    | 0 => exact ⟨_, _, rfl, rfl⟩
    | _ + 1 => exact absurd h (by simp [State.holds, testHolding, Session.fresh, Session.setLock])

/-- One case of each alternative. -/
theorem witness_OperationsSendWholeCommands :
    openSeq = openSeq ∧ loopback true = loopback true ∧ i2cStop = i2cStop ∧
    Act.send .start i2cStart ∈ planOf Params.standard (testClient .teardown) (.i2cWrite 0 0x50 [1]) ∧
    Act.send .idle (spiSetup .m1) ∈ requestSpiBody .uncommitted .auto ∧
    Act.send .idle (i2cSetup .k100) ∈ requestI2cBody .uncommitted .auto ∧
    Act.send .idle (gpioWrite .high 0x01) ∈ gpioWriteBack false .high 0 true 0x00 := by
  refine ⟨rfl, rfl, rfl, ?_, ?_, ?_, ?_⟩ <;> decide

end Sys2Proof.Machine
end

section
/-! PROOFS. The family of 00_scope.md: what a command leaves alone (R1, R5), the two outcomes of a `Send` (R4), and what no
step takes away (R6, R7, R32, R35). -/

namespace Sys2Proof.Machine

/-! ### A free value that is given (log 33) -/

theorem Feed.next_given {α : Type} {g : Nat → α} {f : Feed α} {a : α} {as : List α} (h : f.given = a :: as) :
    f.next g = (a, ⟨as, f.used⟩) := by
  obtain ⟨given, used⟩ := f
  subst h
  rfl

theorem State.drawOutcome_given {s : State} {x : Option TransportError} {xs : List (Option TransportError)}
    (h : s.oracle.outcome.given = x :: xs) : s.drawOutcome.1 = x :=
  congrArg Prod.fst (Feed.next_given h)

theorem Oracle.afterOutcome_given {o : Oracle} {x : Option TransportError} {xs : List (Option TransportError)}
    (h : o.outcome.given = x :: xs) : o.afterOutcome = { o with outcome := ⟨xs, o.outcome.used⟩ } := by
  rw [Oracle.afterOutcome, Feed.next_given h]

/-! ### The device along a step -/

/-- From `d` to `d'` the device does not come back in step (R35, R164), and does not lose its divisor (R32, R292). -/
def Device.KeepsDesyncAndDivisor (d d' : Device) : Prop :=
  (d.sync = false → d'.sync = false) ∧ (d.divisor ≠ none → d'.divisor ≠ none)

theorem Device.KeepsDesyncAndDivisor.refl (d : Device) : d.KeepsDesyncAndDivisor d := ⟨id, id⟩

theorem Device.keepsDesyncAndDivisor_of_eq {d d' : Device} (hs : d'.sync = d.sync) (hd : d'.divisor = d.divisor) :
    d.KeepsDesyncAndDivisor d' :=
  ⟨hs.trans, fun h => hd ▸ h⟩

theorem Device.keepsDesyncAndDivisor_unspecified (d : Device) (k : Nat) :
    d.KeepsDesyncAndDivisor (Device.unspecified k) :=
  ⟨fun _ => rfl, fun _ => Option.some_ne_none _⟩

theorem Device.KeepsDesyncAndDivisor.dropRx {d d' : Device} (n : Nat) (h : d.KeepsDesyncAndDivisor d') :
    d.KeepsDesyncAndDivisor (d'.dropRx n) := h

theorem Device.KeepsDesyncAndDivisor.desync {d d' : Device} (h : d.KeepsDesyncAndDivisor d') :
    d.KeepsDesyncAndDivisor d'.desync :=
  let ⟨_, hdivisor⟩ := h
  ⟨fun _ => rfl, hdivisor⟩

/-- A full-duplex command changes no configuration field and not `D.sync`. -/
theorem State.clockDuplex_keepsDesyncAndDivisor (s : State) (e : Edge) (p : List Byte) :
    s.device.KeepsDesyncAndDivisor (s.clockDuplex e p).device := by
  obtain ⟨bs, o, _, h⟩ := s.clockDuplex_cases e p
  rw [h]
  exact Device.keepsDesyncAndDivisor_of_eq rfl rfl

/-- Of the commands only SET_CLOCK_DIVISOR writes the divisor, and it writes a number; none writes `D.sync`. -/
theorem exec_keepsDesyncAndDivisor {i : Instr} {s t : State} (h : exec i s = .next t) :
    s.device.KeepsDesyncAndDivisor t.device := by
  cases i with
  | setClockDivisor d => cases h; exact ⟨id, fun _ => Option.some_ne_none _⟩
  | msbBytesInoutWfRr p => cases h; exact s.clockDuplex_keepsDesyncAndDivisor .falling p
  | msbBytesInoutWrRf p => cases h; exact s.clockDuplex_keepsDesyncAndDivisor .rising p
  | _ => cases h; exact Device.keepsDesyncAndDivisor_of_eq rfl rfl

/-- Every action but the opening of the device keeps both. -/
theorem State.runAct_keepsDesyncAndDivisor (s : State) (c : Nat) {a : Act} (rest : List Act) (ha : a ≠ .openDevice) :
    s.device.KeepsDesyncAndDivisor (s.runAct c a rest).device :=
  s.runAct_device c a rest (.refl _) s.device.keepsDesyncAndDivisor_unspecified (fun _ n h => h.dropRx n)
    (fun _ h => h.desync) fun h => absurd h ha

/-- The device is opened only while there is no session (R100). -/
theorem State.actPossible_openDevice {s : State} {r : Running} {rest : List Act} (ht : r.todo = .openDevice :: rest)
    (h : s.actPossible r = true) : s.session = none := by
  simp only [State.actPossible, ht, Bool.and_eq_true, Option.isNone_iff_eq_none] at h
  exact h.2

/-! ### One step, whoever takes it -/

/-- What a step from `s` can be: a command of the chip, the passive block, or one of a client's three kinds of step, on
the state with the free choice of that client drawn. -/
inductive StepIs (s : State) : State → Prop where
  | command {i : Instr} {rest : List Byte} {t : State} (hd : decode s.stream = .command i rest)
      (he : exec i (s.withStream rest) = .next t) : StepIs s t
  | passive (hd : s.allDone = true) : StepIs s s
  | acts {c : Nat} {cl : Client} {r : Running} {a : Act} {rest : List Act} (o : Oracle) (hc : s.clients[c]? = some cl)
      (hr : cl.running = some r) (ht : r.todo = a :: rest) (hp : s.actPossible r = true) :
      StepIs s ((s.withOracle o).runAct c a rest)
  | returns {c : Nat} {cl : Client} {r : Running} (o : Oracle) (hc : s.clients[c]? = some cl) (hr : cl.running = some r)
      (ht : r.todo = []) : StepIs s ((s.withOracle o).returnOk c .unit)
  | starts {c : Nat} {cl : Client} {call : Call} {calls : List Call} (o : Oracle) (hc : s.clients[c]? = some cl)
      (hr : cl.running = none) (hcs : cl.calls = call :: calls) (hp : s.callPossible cl call = true) :
      StepIs s ((s.withOracle o).startCall c cl call calls)

/-- Every step is one of these: `step_cases` and `State.clientStep_cases` in one. -/
theorem step_is {s t : State} (h : step s = .next t) : StepIs s t := by
  rcases step_cases h with ⟨i, rest, hd, he⟩ | ⟨rfl, hd⟩ | ⟨c, o, hc, rfl⟩
  · exact .command hd he
  · exact .passive hd
  · have hc' : c ∈ (s.withOracle o).ready := hc
    obtain ⟨cl, hcl, ⟨r, a, rest, hr, ht, hp, e⟩ | ⟨r, hr, ht, _, e⟩ | ⟨call, calls, hr, hcs, hp, e⟩⟩ :=
      State.clientStep_cases hc' <;> rw [e]
    · exact .acts o hcl hr ht hp
    · exact .returns o hcl hr ht
    · exact .starts o hcl hr hcs hp

/-! ### What every step keeps -/

/-- What `t` keeps of `s`: the parameters (R7), the number of clients, the history so far (R6), and, if `s` has a session,
what its device has lost and its divisor (R35, R32). -/
structure Keeps (s t : State) : Prop where
  params : t.params = s.params
  clients : t.clients.length = s.clients.length
  history : ∃ es, t.history = s.history ++ es
  device : ∀ S, s.session = some S → s.device.KeepsDesyncAndDivisor t.device

theorem Keeps.refl (s : State) : Keeps s s where
  params := rfl
  clients := rfl
  history := ⟨[], (List.append_nil _).symm⟩
  device _ _ := .refl _

theorem exec_keeps {i : Instr} {s t : State} (h : exec i s = .next t) : Keeps s t := by
  have hdev := exec_keepsDesyncAndDivisor h
  obtain ⟨d, o, e, hparts⟩ := exec_parts i s
  obtain rfl := Host.Outcome.next.inj (hparts.symm.trans h)
  exact { Keeps.refl s with device := fun _ _ => hdev }

theorem State.finish_keeps (s : State) (c : Nat) (res : Result) : Keeps s (s.finish c res) :=
  { Keeps.refl s with clients := List.length_modify .. }

/-- An action only adds to the end of the history. -/
theorem State.runAct_history_grows (s : State) (c : Nat) (a : Act) (rest : List Act) :
    ∃ es, (s.runAct c a rest).history = s.history ++ es := by
  rcases s.runAct_history c a rest with h | ⟨_, _, h, _⟩ | ⟨_, _, h, _⟩ | ⟨h, _⟩
  · exact ⟨[], by rw [h, List.append_nil]⟩
  all_goals exact ⟨_, h⟩

theorem State.runAct_keeps {s : State} {c : Nat} {cl : Client} {r : Running} {a : Act} {rest : List Act}
    (hc : s.clients[c]? = some cl) (hr : cl.running = some r) (ht : r.todo = a :: rest) (hp : s.actPossible r = true) :
    Keeps s (s.runAct c a rest) where
  params := s.runAct_params c a rest
  clients := by
    obtain ⟨cl', h, _⟩ := State.runAct_moves hc hr ht
    rw [h, List.length_set]
  history := s.runAct_history_grows c a rest
  device S hS := s.runAct_keepsDesyncAndDivisor c rest fun ha => by
    subst ha
    simp [State.actPossible_openDevice ht hp] at hS

/-- The start of a call changes no device field but the queue, which teardown empties (R113). -/
theorem State.startCall_keeps (s : State) (c : Nat) (cl : Client) (call : Call) (calls : List Call) :
    Keeps s (s.startCall c cl call calls) := by
  by_cases hcall : call = .teardown
  · subst hcall
    exact { Keeps.refl s with
      clients := by simp [State.startCall, State.teardown]
      device := fun _ _ => Device.keepsDesyncAndDivisor_of_eq rfl rfl }
  · rw [State.startCall_running hcall]
    exact { Keeps.refl s with clients := List.length_set .. }

theorem step_keeps {s t : State} (h : step s = .next t) : Keeps s t := by
  cases step_is h with
  | command _ he => exact { exec_keeps he with }
  | passive _ => exact .refl _
  | acts o hc hr ht hp => exact { State.runAct_keeps (s := s.withOracle o) hc hr ht hp with }
  | returns o _ _ _ => exact { (s.withOracle o).finish_keeps _ (.ok .unit) with }
  | starts o _ _ _ _ => exact { (s.withOracle o).startCall_keeps _ _ _ _ with }

/-! ### The obligations -/

/-- Settles O24: the given answer picks one of the two outcomes of `State.send_cases`. -/
theorem sendAppendsToStreamOrHavocksDevice : Obligations.SendAppendsToStreamOrHavocksDevice := by
  intro s c bs os
  constructor
  · intro hgiven
    rcases s.send_cases c bs with ⟨_, hsend⟩ | ⟨e, hfails, _⟩
    · rw [hsend, Oracle.afterOutcome_given hgiven]
      rfl
    · simp [State.drawOutcome_given hgiven] at hfails
  · intro e hgiven
    rcases s.send_cases c bs with ⟨hok, _⟩ | ⟨e', hfails, hsend⟩
    · simp [State.drawOutcome_given hgiven] at hok
    · obtain rfl : e = e' := Option.some.inj ((State.drawOutcome_given hgiven).symm.trans hfails)
      exact ⟨_, _, hsend, rfl⟩

/-- Settles O20: `exec_parts` names the only parts a command changes, the device, the free values and the record of the
data lines. -/
theorem commandsTouchOnlyTheChip : Obligations.CommandsTouchOnlyTheChip := by
  intro i s
  obtain ⟨d, o, e, hexec⟩ := exec_parts i s
  exact ⟨_, hexec, rfl, rfl, rfl, rfl, rfl, rfl⟩

/-- Settles O59, by `step_keeps`: each kind of step keeps the four parts. -/
theorem stepKeepsParametersHistorySyncAndDivisor : Obligations.StepKeepsParametersHistorySyncAndDivisor := by
  intro s t h
  obtain ⟨hparams, hclients, hhistory, hdevice⟩ := step_keeps h
  exact ⟨hparams, hclients, hhistory, hdevice⟩

end Sys2Proof.Machine
end

section
/-! PROOFS. The family of 10_state.md: the state after reset (R37, R290), the named pins (R29, R110), and what every
step keeps of the response queue (R34), the lock and the bus (R24), and the pins (R25, R27). -/

namespace Sys2Proof.Machine

/-! ### The named pins (R29, R110) -/

theorem pinIndex_lt {bit : Nat} {bank : Bank} (h : pinValid bit bank = true) : pinIndex bit bank < 12 := by
  cases bank <;> simp only [pinValid, pinIndex, Bool.and_eq_true, decide_eq_true_eq] at h ⊢ <;> omega

/-- The low bank's valid descriptors have the places 0 to 3, the high bank's the places 4 to 11. -/
theorem pinIndex_injective {bit bit' : Nat} {bank bank' : Bank} (h : pinValid bit bank = true)
    (h' : pinValid bit' bank' = true) (he : pinIndex bit bank = pinIndex bit' bank') : bit = bit' ∧ bank = bank' := by
  cases bank <;> cases bank' <;>
    simp only [pinValid, pinIndex, Bool.and_eq_true, decide_eq_true_eq, and_true, reduceCtorEq, and_false] at * <;>
    omega

/-- The pin whose flag is at place `i` of `S.pinAvailable`, for `i` below 12. -/
def PinName.atPlace (i : Nat) : PinName :=
  [.pl0, .pl1, .pl2, .pl3, .ph0, .ph1, .ph2, .ph3, .ph4, .ph5, .ph6, .ph7].getD i .pl0

/-- The place of a pin's flag. -/
def PinName.place (n : PinName) : Nat := pinIndex n.descriptor.1 n.descriptor.2

theorem PinName.atPlace_place (n : PinName) : PinName.atPlace n.place = n := by cases n <;> rfl

theorem PinName.place_atPlace : ∀ i < 12, (PinName.atPlace i).place = i := by decide

theorem PinName.descriptor_valid (n : PinName) : pinValid n.descriptor.1 n.descriptor.2 = true := by cases n <;> rfl

/-- A valid descriptor is that of the pin at its place, since no other valid descriptor has that place. -/
theorem PinName.descriptor_atPlace {bit : Nat} {bank : Bank} (h : pinValid bit bank = true) :
    (PinName.atPlace (pinIndex bit bank)).descriptor = (bit, bank) := by
  have hplace := PinName.place_atPlace _ (pinIndex_lt h)
  obtain ⟨hbit, hbank⟩ := pinIndex_injective (PinName.descriptor_valid _) h hplace
  exact Prod.ext hbit hbank

/-! ### The response queue (R34, R38, R139) -/

/-- A full-duplex command only appends to the queue. -/
theorem State.clockDuplex_queueOk {s : State} (e : Edge) (p : List Byte) (h : s.device.queueOk) :
    (s.clockDuplex e p).device.queueOk := by
  obtain ⟨bs, o, _, he⟩ := s.clockDuplex_cases e p
  rw [he]
  exact Device.queueOk_respond bs h

/-- Each command appends to the queue, flushes it, or leaves it alone. -/
theorem exec_queueOk {i : Instr} {s t : State} (h : s.device.queueOk) (he : exec i s = .next t) : t.device.queueOk := by
  cases i with
  | msbBytesInoutWfRr p => cases he; exact State.clockDuplex_queueOk _ p h
  | msbBytesInoutWrRf p => cases he; exact State.clockDuplex_queueOk _ p h
  | msbBytesInRising n => cases he; exact Device.queueOk_respond _ h
  | msbBytesInFalling n => cases he; exact Device.queueOk_respond _ h
  | msbBitsInRising k => cases he; exact Device.queueOk_respond _ h
  | msbBitsInFalling k => cases he; exact Device.queueOk_respond _ h
  | getBitsLow => cases he; exact Device.queueOk_respond _ h
  | getBitsHigh => cases he; exact Device.queueOk_respond _ h
  | sendImmediate => cases he; exact Device.queueOk_flush _
  | _ => cases he; exact h

/-- A device at launch has an empty queue, or an unspecified one with its marks in place (R291). -/
theorem Device.queueOk_atLaunch {d : Device} (clean : Bool) (h : d.queueOk) : (d.atLaunch clean).queueOk := by
  cases clean with
  | false => exact h
  | true => exact Nat.le_refl 0

theorem State.runAct_queueOk {s : State} (c : Nat) (a : Act) (rest : List Act) (h : s.device.queueOk) :
    (s.runAct c a rest).device.queueOk :=
  s.runAct_device c a rest h Device.queueOk_unspecified (fun _ n hd => Device.queueOk_dropRx n hd) (fun _ hd => hd)
    fun _ clean k => Device.queueOk_atLaunch clean (Device.queueOk_unspecified k)

/-- The start of a call leaves the queue alone, but for teardown, which empties it (R113). -/
theorem State.startCall_queueOk {s : State} (c : Nat) (cl : Client) (call : Call) (calls : List Call)
    (h : s.device.queueOk) : (s.startCall c cl call calls).device.queueOk := by
  by_cases hcall : call = .teardown
  · subst hcall
    exact Nat.le_refl 0
  · rw [State.startCall_running hcall]
    exact h

/-! ### One step, seen from the session and the clients -/

/-- What a step does to the session and to the clients: nothing, an action, the return or the start of an operation, or
the end of the session. -/
inductive SessionMoves (s t : State) : Prop where
  | keeps (hS : t.session = s.session) (hC : t.clients = s.clients)
  | acts {c : Nat} {cl cl' : Client} {r : Running} {a : Act} {rest : List Act} (hc : s.clients[c]? = some cl)
      (hr : cl.running = some r) (ht : r.todo = a :: rest) (hp : s.actPossible r = true)
      (hC : t.clients = s.clients.set c cl') (hm : ActMoves s c cl r a rest t.session cl')
  | returns {c : Nat} {cl : Client} {r : Running} (res : Result) (hc : s.clients[c]? = some cl)
      (hr : cl.running = some r) (hS : t.session = s.session.map (Session.release c))
      (hC : t.clients = s.clients.set c (cl.return res))
  | starts {c : Nat} {cl : Client} {call : Call} (calls : List Call) (op : Running) (hc : s.clients[c]? = some cl)
      (hr : cl.running = none) (hp : s.callPossible cl call = true) (hS : t.session = s.session)
      (ht : op.todo = planOf s.params cl call)
      (hC : t.clients = s.clients.set c { cl.dropped call with calls := calls, running := some op })
  | tearsDown (hS : t.session = none) (hC : ∀ cl ∈ t.clients, cl.running = none ∧ cl.pins = [])

/-- A teardown has a step only while no operation is in progress, and leaves no client a pin handle (R113). -/
theorem State.startCall_tearsDown {s : State} {c : Nat} {cl : Client} {calls : List Call} (hr : cl.running = none)
    (hp : s.callPossible cl .teardown = true) : SessionMoves s (s.startCall c cl .teardown calls) := by
  simp only [State.callPossible, Bool.and_eq_true] at hp
  have hidle := (State.noOperation_iff s).1 hp.2
  refine .tearsDown rfl fun x hx => ?_
  obtain ⟨d, hd⟩ := List.mem_iff_getElem?.1 hx
  obtain ⟨_, _, hpins, y, hy, hrun⟩ := State.teardown_client hd
  have hyrun : y.running = none := by
    rw [State.setClient_clients, List.getElem?_set] at hy
    split at hy
    · split at hy
      · cases hy; exact hr
      · cases hy
    · exact hidle d y hy
  exact ⟨hrun.elim id (·.trans hyrun), hpins⟩

/-- Every step is one of these, but for the free choice of a client. -/
theorem step_sessionMoves {s t : State} (h : step s = .next t) : ∃ o, SessionMoves (s.withOracle o) t := by
  cases step_is h with
  | @command i rest _ _ he =>
    obtain ⟨d, o, e, hparts⟩ := exec_parts i (s.withStream rest)
    obtain rfl := Host.Outcome.next.inj (hparts.symm.trans he)
    exact ⟨s.oracle, .keeps rfl rfl⟩
  | passive _ => exact ⟨s.oracle, .keeps rfl rfl⟩
  | acts o hc hr ht hp =>
    obtain ⟨cl', hC, hm⟩ := State.runAct_moves (s := s.withOracle o) hc hr ht
    exact ⟨o, .acts hc hr ht hp hC hm⟩
  | returns o hc hr _ => exact ⟨o, .returns (.ok .unit) hc hr rfl (State.finish_moves hc _)⟩
  | @starts c cl call calls o hc hr hcs hp =>
    refine ⟨o, ?_⟩
    by_cases hcall : call = .teardown
    · subst hcall
      exact State.startCall_tearsDown hr hp
    · rw [State.startCall_running hcall]
      exact .starts calls _ hc hr hp rfl rfl rfl

/-! ### The plans of the calls -/

/-- An action that takes, releases, commits and frees nothing. -/
def Act.plain : Act → Bool
  | .takeLock => false
  | .releaseLock => false
  | .commit _ => false
  | .freePin _ => false
  | _ => true

/-- The shape of a plan: one lock region of plain actions, or plain actions that need no lock. -/
inductive PlanShape : List Act → Prop where
  | region {body : List Act} (h : body.all Act.plain = true) : PlanShape (.takeLock :: body)
  | lockless {l : List Act} (h : l.all Act.plain = true) (hn : (l.all fun a => !a.needsLock) = true) : PlanShape l

theorem PlanShape.ite {p : Prop} [Decidable p] {l l' : List Act} (h : PlanShape l) (h' : PlanShape l') :
    PlanShape (if p then l else l') := by
  split
  · exact h
  · exact h'

/-- A plan that exists only for a handle that is there. -/
theorem PlanShape.getD {α : Type} {x : Option α} {plan : α → List Act} (h : ∀ a, PlanShape (plan a)) :
    PlanShape ((x.map plan).getD []) := by
  cases x with
  | none => exact .lockless rfl rfl
  | some a => exact h a

theorem addressPhase_plain (b : Byte) : (addressPhase b).all Act.plain = true := rfl

theorem writePhases_plain (bs : List Byte) : (bs.flatMap writePhase).all Act.plain = true := by
  simp [List.all_flatMap, writePhase, Act.plain]

theorem readPhases_plain (n : Nat) : (readPhases n).all Act.plain = true := by
  simp [readPhases, List.all_flatMap, readPhase, Act.plain]

theorem i2cWritePlan_shape (policy : AddrPolicy) (addr : Byte) (bytes : List Byte) :
    PlanShape (i2cWritePlan policy addr bytes) := by
  refine .ite (.lockless rfl rfl) (.ite (.lockless rfl rfl) ?_)
  refine .region (body := [.send .start i2cStart] ++
    addressPhase (addrW addr) ++ bytes.flatMap writePhase ++ [.send .stop i2cStop, .done .unit]) ?_
  simp only [List.all_append, addressPhase_plain, writePhases_plain]
  rfl

theorem i2cReadPlan_shape (policy : AddrPolicy) (addr : Byte) (n : Nat) : PlanShape (i2cReadPlan policy addr n) := by
  refine .ite (.lockless rfl rfl) (.ite (.lockless rfl rfl) ?_)
  refine .region (body := [.send .start i2cStart] ++
    addressPhase (addrR addr) ++ readPhases n ++ [.send .stop i2cStop, .doneRead]) ?_
  simp only [List.all_append, addressPhase_plain, readPhases_plain]
  rfl

theorem i2cWriteThenReadPlan_shape (policy : AddrPolicy) (addr : Byte) (bytes : List Byte) (n : Nat) :
    PlanShape (i2cWriteThenReadPlan policy addr bytes n) := by
  refine .ite (.lockless rfl rfl) (.ite (.lockless rfl rfl) ?_)
  refine .region (body := [.send .start i2cStart] ++
    addressPhase (addrW addr) ++ bytes.flatMap writePhase ++ [.send .repeatedStart i2cStart] ++
    addressPhase (addrR addr) ++ readPhases n ++ [.send .stop i2cStop, .doneRead]) ?_
  simp only [List.all_append, addressPhase_plain, writePhases_plain, readPhases_plain]
  rfl

/-- Every call but the end of a pin handle has a plan of that shape. -/
theorem planOf_shape (params : Params) (cl : Client) {call : Call} (h : ∀ k, call ≠ .dropPin k) :
    PlanShape (planOf params cl call) := by
  cases call with
  | openSession => exact .lockless rfl rfl
  | setLoopback enabled => exact .region rfl
  | requestSpi speed => exact .region rfl
  | requestI2c speed => exact .region rfl
  | acquirePin bit bank => exact .region rfl
  | teardown => exact .lockless rfl rfl
  | i2cWrite k addr bytes => exact i2cWritePlan_shape _ _ _
  | i2cRead k addr n => exact i2cReadPlan_shape _ _ _
  | i2cWriteThenRead k addr bytes n => exact i2cWriteThenReadPlan_shape _ _ _ _
  | spiSetMode k cpol cpha => exact .lockless rfl rfl
  | spiTransfer k p => exact .getD fun _ => .ite (.lockless rfl rfl) (.ite (.lockless rfl rfl) (.region rfl))
  | spiWrite k p => exact .getD fun _ => .ite (.lockless rfl rfl) (.ite (.lockless rfl rfl) (.region rfl))
  | gpioSetHigh k => exact .getD fun _ => .region rfl
  | gpioSetLow k => exact .getD fun _ => .region rfl
  | dropPin k => exact absurd rfl (h k)

/-! What a list of actions demands of the lock, commits and frees, action by action. -/

@[simp] theorem guarded_takeLock (held : Bool) (rest : List Act) :
    guarded held (.takeLock :: rest) = (!held && guarded true rest) := rfl

@[simp] theorem guarded_releaseLock (held : Bool) (rest : List Act) :
    guarded held (.releaseLock :: rest) = (held && guarded false rest) := rfl

/-- An action that neither takes nor releases the lock keeps the discipline as it finds it. -/
theorem guarded_cons {held : Bool} {a : Act} {rest : List Act} (hl : a ≠ .takeLock) (hu : a ≠ .releaseLock) :
    guarded held (a :: rest) = ((held || !a.needsLock) && guarded held rest) := by
  cases a with
  | takeLock => exact absurd rfl hl
  | releaseLock => exact absurd rfl hu
  | _ => rfl

theorem Act.plain_ne {a : Act} (h : a.plain = true) :
    a ≠ .takeLock ∧ a ≠ .releaseLock ∧ (∀ b, a ≠ .commit b) ∧ ∀ i, a ≠ .freePin i := by
  refine ⟨?_, ?_, fun b => ?_, fun i => ?_⟩ <;> rintro rfl <;> cases h

theorem guarded_of_plain {held : Bool} {l : List Act} (h : l.all Act.plain = true)
    (hn : held = true ∨ (l.all fun a => !a.needsLock) = true) : guarded held l = true := by
  induction l with
  | nil => cases held <;> rfl
  | cons a rest ih =>
    simp only [List.all_cons, Bool.and_eq_true] at h hn
    obtain ⟨hl, hu, _⟩ := Act.plain_ne h.1
    rw [guarded_cons hl hu, ih h.2 (hn.imp_right And.right)]
    rcases hn with hn | hn <;> simp [hn]

theorem commits_cons {a : Act} (h : ∀ b, a ≠ .commit b) (rest : List Act) : commits (a :: rest) = commits rest := by
  cases a with
  | commit b => exact absurd rfl (h b)
  | _ => rfl

theorem commits_of_plain {l : List Act} (h : l.all Act.plain = true) : commits l = [] := by
  induction l with
  | nil => rfl
  | cons a rest ih =>
    rw [List.all_cons, Bool.and_eq_true] at h
    obtain ⟨_, _, hc, _⟩ := Act.plain_ne h.1
    rw [commits_cons hc, ih h.2]

theorem pinsFreed_cons {a : Act} (h : ∀ i, a ≠ .freePin i) (rest : List Act) :
    pinsFreed (a :: rest) = pinsFreed rest := by
  cases a with
  | freePin i => exact absurd rfl (h i)
  | _ => rfl

theorem pinsFreed_of_plain {l : List Act} (h : l.all Act.plain = true) : pinsFreed l = [] := by
  induction l with
  | nil => rfl
  | cons a rest ih =>
    rw [List.all_cons, Bool.and_eq_true] at h
    obtain ⟨_, _, _, hi⟩ := Act.plain_ne h.1
    rw [pinsFreed_cons hi, ih h.2]

/-- The actions of a plan keep the discipline from a free lock on. -/
theorem PlanShape.guarded {l : List Act} (h : PlanShape l) : guarded false l = true := by
  cases h with
  | region h => simp [guarded_of_plain h (.inl rfl)]
  | lockless h hn => exact guarded_of_plain h (.inr hn)

theorem PlanShape.commits {l : List Act} (h : PlanShape l) : commits l = [] := by
  cases h with
  | region h => rw [commits_cons (by simp), commits_of_plain h]
  | lockless h _ => exact commits_of_plain h

theorem PlanShape.pinsFreed {l : List Act} (h : PlanShape l) : pinsFreed l = [] := by
  cases h with
  | region h => rw [pinsFreed_cons (by simp), pinsFreed_of_plain h]
  | lockless h _ => exact pinsFreed_of_plain h

/-! ### Who holds the lock after a change of the session -/

theorem held_beq (c d : Nat) : (Lock.held c == Lock.held d) = decide (d = c) := by
  rw [Bool.eq_iff_iff, beq_iff_eq, decide_eq_true_iff, Lock.held.injEq, eq_comm]

section
variable {s t : State} {c : Nat} {f : Session → Session}

theorem State.holds_eq_of_lock_eq (h : t.session = s.session.map f) (hf : ∀ S, (f S).lock = S.lock) (d : Nat) :
    t.holds d = s.holds d := by
  unfold State.holds
  rw [h]
  cases s.session with
  | none => rfl
  | some S => simp [hf]

theorem State.holds_of_session_eq (h : t.session = s.session) (d : Nat) : t.holds d = s.holds d := by
  rw [State.holds, State.holds, h]

theorem State.holds_of_released (h : t.session = s.session.map f) (hf : ∀ S, (f S).lock = (S.release c).lock)
    (d : Nat) : t.holds d = (decide (d ≠ c) && s.holds d) := by
  unfold State.holds
  rw [h]
  cases s.session with
  | none => simp
  | some S =>
    simp only [Option.map_some, hf, Session.release_lock]
    by_cases hl : S.lock = .held c
    · simp [hl, held_beq]
    · by_cases hd : d = c <;> simp [hl, hd]

theorem State.holds_of_none (h : s.session = none) (d : Nat) : s.holds d = false := by
  rw [State.holds, h]

theorem State.holds_of_fresh (h : s.session = some Session.fresh) (d : Nat) : s.holds d = false := by
  rw [State.holds, h]
  rfl

theorem State.holds_of_lockFree (h : s.lockFree = true) (d : Nat) : s.holds d = false := by
  obtain ⟨S, hS, hl⟩ := s.lockFree_iff.1 h
  simp [State.holds, hS, hl]

theorem State.holds_of_taken (hl : s.lockFree = true) (h : t.session = s.session.map fun S => S.setLock (.held c))
    (d : Nat) : t.holds d = decide (d = c) := by
  obtain ⟨S, hS, _⟩ := s.lockFree_iff.1 hl
  simp [State.holds, h, hS, held_beq]

end

/-! ### The lock discipline (R55, R57) -/

/-- A step of client `c`, which leaves it as `cl'`, keeps the discipline: the others hold the lock as before, what the
client's operation has left is guarded, and the client holds the lock only while it is in an operation. -/
structure KeepsDiscipline (s t : State) (c : Nat) (cl' : Client) : Prop where
  others : ∀ d, d ≠ c → t.holds d = s.holds d
  todo : ∀ r', cl'.running = some r' → guarded (t.holds c) r'.todo = true
  inOperation : t.holds c = true → ∃ r', cl'.running = some r'

/-- A client replaced in the list of clients: another client is as it was. -/
theorem getElem?_set_cases {α : Type} {l : List α} {c d : Nat} {x y : α} (h : (l.set c x)[d]? = some y) :
    (d = c ∧ y = x) ∨ (d ≠ c ∧ l[d]? = some y) := by
  rw [List.getElem?_set] at h
  split at h
  · rename_i hcd
    split at h
    · exact .inl ⟨hcd.symm, (Option.some.inj h).symm⟩
    · cases h
  · rename_i hcd
    exact .inr ⟨Ne.symm hcd, h⟩

theorem LockInv.of_keeps {s t : State} {c : Nat} {cl cl' : Client} (h : LockInv s) (hc : s.clients[c]? = some cl)
    (hC : t.clients = s.clients.set c cl') (hk : KeepsDiscipline s t c cl') : LockInv t := by
  obtain ⟨hguarded, hholder⟩ := h
  have hc' : t.clients[c]? = some cl' := by
    obtain ⟨hlt, _⟩ := List.getElem?_eq_some_iff.1 hc
    simp [hC, hlt]
  refine ⟨fun d x r hx hr => ?_, fun d hd => ?_⟩
  · rw [hC] at hx
    rcases getElem?_set_cases hx with ⟨rfl, rfl⟩ | ⟨hne, hx⟩
    · exact hk.todo r hr
    · rw [hk.others d hne]
      exact hguarded d x r hx hr
  · by_cases hne : d = c
    · subst hne
      obtain ⟨r, hr⟩ := hk.inOperation hd
      exact ⟨cl', r, hc', hr⟩
    · obtain ⟨x, r, hx, hr⟩ := hholder d (hk.others d hne ▸ hd)
      exact ⟨x, r, by rw [hC, List.getElem?_set_ne (Ne.symm hne)]; exact hx, hr⟩

/-- The end of an operation releases its client's lock and no other's. -/
theorem KeepsDiscipline.of_release {s t : State} {c : Nat} {cl' : Client} {f : Session → Session}
    (hS : t.session = s.session.map f) (hf : ∀ S, (f S).lock = (S.release c).lock) (hr : cl'.running = none) :
    KeepsDiscipline s t c cl' where
  others d hd := by simp [State.holds_of_released hS hf, hd]
  todo r' h := by simp [hr] at h
  inOperation h := by simp [State.holds_of_released hS hf] at h

/-- An operation that goes on with a guarded list, the lock being as it was. -/
theorem KeepsDiscipline.of_same {s t : State} {c : Nat} {cl' : Client} {r' : Running}
    (hl : ∀ d, t.holds d = s.holds d) (hr : cl'.running = some r') (hg : guarded (s.holds c) r'.todo = true) :
    KeepsDiscipline s t c cl' where
  others d _ := hl d
  todo r h := by
    obtain rfl := Option.some.inj (hr.symm.trans h)
    rw [hl]
    exact hg
  inOperation _ := ⟨r', hr⟩

theorem gpioWriteBack_guarded (atomic : Bool) (bank : Bank) (bit : Nat) (level : Bool) (v : Byte) :
    guarded true (gpioWriteBack atomic bank bit level v) = true := by
  cases atomic <;> rfl

theorem requestSpiBody_guarded (mode : BusMode) (speed : SpiSpeed) :
    guarded true (requestSpiBody mode speed) = true := by
  cases mode with
  | spi committed => simp only [requestSpiBody]; split <;> rfl
  | _ => rfl

theorem requestI2cBody_guarded (mode : BusMode) (speed : I2cSpeed) :
    guarded true (requestI2cBody mode speed) = true := by
  cases mode with
  | i2c committed => simp only [requestI2cBody]; split <;> rfl
  | _ => rfl

/-- An action that needs the lock is guarded only where it is held. -/
theorem held_of_guarded {held : Bool} {a : Act} {rest : List Act} (h : guarded held (a :: rest) = true)
    (hn : a.needsLock = true) : held = true := by
  cases a with
  | takeLock => cases hn
  | releaseLock => exact (Bool.and_eq_true_iff.1 h).1
  | _ =>
    rw [guarded_cons (by simp) (by simp), hn] at h
    simpa using (Bool.and_eq_true_iff.1 h).1

/-- What is left after a guarded action that is no `takeLock` or `releaseLock` is guarded. -/
theorem guarded_tail {held : Bool} {a : Act} {rest : List Act} (hl : a ≠ .takeLock) (hu : a ≠ .releaseLock)
    (h : guarded held (a :: rest) = true) : guarded held rest = true := by
  rw [guarded_cons hl hu] at h
  exact (Bool.and_eq_true_iff.1 h).2

section
variable {s t : State} {c : Nat} {cl cl' : Client} {r : Running} {a : Act} {rest : List Act}

theorem State.actPossible_takeLock (ht : r.todo = .takeLock :: rest) (h : s.actPossible r = true) :
    s.lockFree = true := by
  simp only [State.actPossible, ht, Bool.and_eq_true] at h
  exact h.2

theorem State.actPossible_makeSession (ht : r.todo = .makeSession :: rest) (h : s.actPossible r = true) :
    s.session = none := by
  simp only [State.actPossible, ht, Bool.and_eq_true, Option.isNone_iff_eq_none] at h
  exact h.2

/-- Every action keeps the lock discipline. -/
theorem ActMoves.keepsDiscipline (hm : ActMoves s c cl r a rest t.session cl') (ht : r.todo = a :: rest)
    (hp : s.actPossible r = true) (hg : guarded (s.holds c) r.todo = true) : KeepsDiscipline s t c cl' := by
  generalize hS : t.session = S' at hm
  cases hm with
  | ends f _ hf hr _ => exact .of_release hS (fun S => (hf S).1) hr
  | claims bit bank S _ _ hSs _ _ hr _ =>
    refine .of_release (f := fun S => (S.setAvailable (pinIndex bit bank) false).release c)
      (by rw [hS, hSs]; rfl) (fun S => ?_) hr
    rw [Session.release_lock, Session.release_lock]
    rfl
  | goesOn _ r' hr htodo _ hl hu _ _ =>
    exact .of_same (State.holds_of_session_eq hS) hr (htodo ▸ guarded_tail hl hu (ht ▸ hg))
  | locks _ r' ha hr htodo _ =>
    subst ha
    have hfree := State.actPossible_takeLock ht hp
    rw [ht, guarded_takeLock, Bool.and_eq_true] at hg
    have htaken := State.holds_of_taken hfree hS
    refine ⟨fun d hd => ?_, fun r hr' => ?_, fun _ => ⟨r', hr⟩⟩
    · simp [htaken, State.holds_of_lockFree hfree, hd]
    · obtain rfl := Option.some.inj (hr.symm.trans hr')
      rw [htodo, htaken]
      simpa using hg.2
  | unlocks _ r' ha hr htodo _ =>
    subst ha
    rw [ht, guarded_releaseLock, Bool.and_eq_true] at hg
    have hreleased := State.holds_of_released hS fun _ => rfl
    refine ⟨fun d hd => ?_, fun r hr' => ?_, fun _ => ⟨r', hr⟩⟩
    · simp [hreleased, hd]
    · obtain rfl := Option.some.inj (hr.symm.trans hr')
      rw [htodo, hreleased]
      simpa using hg.2
  | commits b _ r' ha hr htodo _ =>
    exact .of_same (State.holds_eq_of_lock_eq hS fun _ => rfl) hr
      (htodo ▸ guarded_tail (by simp [ha]) (by simp [ha]) (ht ▸ hg))
  | frees i _ r' ha hr htodo _ =>
    exact .of_same (State.holds_eq_of_lock_eq hS fun _ => rfl) hr
      (htodo ▸ guarded_tail (by simp [ha]) (by simp [ha]) (ht ▸ hg))
  | turns f _ r' hf hr _ htodo =>
    refine .of_same (State.holds_eq_of_lock_eq hS fun S => (hf S).1) hr ?_
    rw [ht] at hg
    have hheld := held_of_guarded hg
    rcases htodo with ⟨rfl, h⟩ | ⟨_, _, _, _, rfl, h⟩ | ⟨_, _, rfl, h⟩ | ⟨_, _, rfl, _, h⟩ | ⟨_, _, rfl, _, h⟩ <;>
      rw [h, hheld rfl]
    · rfl
    · exact gpioWriteBack_guarded _ _ _ _ _
    · rw [hheld rfl] at hg
      exact guarded_tail (a := .writeLoopback true) (by simp) (by simp) hg
    · exact requestSpiBody_guarded _ _
    · exact requestI2cBody_guarded _ _
  | opens _ ha hr _ =>
    subst ha
    have hnone := State.holds_of_none (State.actPossible_makeSession ht hp)
    refine ⟨fun d _ => ?_, fun r' h => ?_, fun h => ?_⟩
    · rw [State.holds_of_fresh hS, hnone]
    · simp [hr] at h
    · simp [State.holds_of_fresh hS] at h
  | stays _ r' hr htodo _ => exact .of_same (State.holds_of_session_eq hS) hr (htodo ▸ hg)

end

theorem dropPinPlan_guarded (release : Bool) (pin : PinHandle) : guarded false (dropPinPlan release pin) = true := by
  cases release <;> rfl

theorem planOf_guarded (params : Params) (cl : Client) (call : Call) :
    guarded false (planOf params cl call) = true := by
  by_cases hdrop : ∃ k, call = .dropPin k
  · obtain ⟨k, rfl⟩ := hdrop
    rw [planOf, onPin]
    cases cl.pin k with
    | none => rfl
    | some pin => exact dropPinPlan_guarded _ _
  · exact (planOf_shape params cl fun k hk => hdrop ⟨k, hk⟩).guarded

theorem LockInv.todo_guarded {s : State} {c : Nat} {cl : Client} {r : Running} (h : LockInv s)
    (hc : s.clients[c]? = some cl) (hr : cl.running = some r) : guarded (s.holds c) r.todo = true :=
  let ⟨hguarded, _⟩ := h
  hguarded c cl r hc hr

/-- Outside an operation no client holds the lock. -/
theorem LockInv.not_holds {s : State} {c : Nat} {cl : Client} (h : LockInv s) (hc : s.clients[c]? = some cl)
    (hr : cl.running = none) : s.holds c = false := by
  obtain ⟨_, hholder⟩ := h
  by_contra hh
  obtain ⟨x, r, hx, hxr⟩ := hholder c (by simpa using hh)
  obtain rfl := Option.some.inj (hc.symm.trans hx)
  simp [hr] at hxr

theorem SessionMoves.lockInv {s t : State} (hm : SessionMoves s t) (h : LockInv s) : LockInv t := by
  cases hm with
  | keeps hS hC =>
    obtain ⟨hguarded, hholder⟩ := h
    rw [LockInv, hC, funext (State.holds_of_session_eq hS)]
    exact ⟨hguarded, hholder⟩
  | acts hc hr ht hp hC hm => exact h.of_keeps hc hC (hm.keepsDiscipline ht hp (h.todo_guarded hc hr))
  | returns res hc hr hS hC => exact h.of_keeps hc hC (.of_release hS (fun _ => rfl) rfl)
  | starts calls op hc hr hp hS ht hC =>
    refine h.of_keeps hc hC (.of_same (State.holds_of_session_eq hS) rfl ?_)
    rw [h.not_holds hc hr, ht]
    exact planOf_guarded _ _ _
  | tearsDown hS hC =>
    refine ⟨fun d x r hx hr => ?_, fun d hd => ?_⟩
    · simp [(hC x (List.mem_of_getElem? hx)).1] at hr
    · simp [State.holds_of_none hS] at hd

/-! ### The bus (R24, R294) -/

/-- The bus mode of the session, if there is one. -/
def State.mode (s : State) : Option BusMode := s.session.map Session.busMode

theorem State.mode_eq_some {s : State} {b : BusMode} : s.mode = some b ↔ ∃ S, s.session = some S ∧ S.busMode = b :=
  Option.map_eq_some_iff

/-- Client `c`, with the actions `todo` left, is alone in committing a bus: the demand of `CommitInv` on one client. -/
structure Committing (s : State) (c : Nat) (todo : List Act) : Prop where
  holds : s.holds c = true
  keepsLock : .releaseLock ∉ todo
  bus : ∃ b, commits todo = [b] ∧ b.resolved = true
  mode : s.mode = some .uncommitted

theorem commitInv_iff {s : State} : CommitInv s ↔ ∀ c cl r, s.clients[c]? = some cl → cl.running = some r →
    commits r.todo ≠ [] → Committing s c r.todo := by
  constructor
  · intro h c cl r hc hr hcom
    obtain ⟨hholds, hkeeps, hb, hmode⟩ := h c cl r hc hr hcom
    exact ⟨hholds, hkeeps, hb, State.mode_eq_some.2 hmode⟩
  · intro h c cl r hc hr hcom
    obtain ⟨hholds, hkeeps, hb, hmode⟩ := h c cl r hc hr hcom
    exact ⟨hholds, hkeeps, hb, State.mode_eq_some.1 hmode⟩

/-- The invariant on the stored speed, in terms of the bus mode. -/
theorem resolved_iff {s : State} : (∀ S, s.session = some S → S.busMode.resolved = true) ↔
    ∀ b, s.mode = some b → b.resolved = true := by
  simp [State.mode]

theorem CommitInv.of_step {s t : State} {c : Nat} {cl' : Client} (h : CommitInv s)
    (hC : t.clients = s.clients.set c cl')
    (hothers : ∀ d, d ≠ c → s.holds d = true → t.holds d = true ∧ t.mode = s.mode)
    (hown : ∀ r', cl'.running = some r' → commits r'.todo ≠ [] → Committing t c r'.todo) : CommitInv t := by
  rw [commitInv_iff] at h ⊢
  intro d x r hx hr hcom
  rw [hC] at hx
  rcases getElem?_set_cases hx with ⟨rfl, rfl⟩ | ⟨hne, hx⟩
  · exact hown r hr hcom
  · have hd := h d x r hx hr hcom
    obtain ⟨hholds, hmode⟩ := hothers d hne hd.holds
    exact ⟨hholds, hd.keepsLock, hd.bus, hmode.trans hd.mode⟩

/-- A client that has the same bus to commit, with the lock and the bus as they were, is still committing it. -/
theorem Committing.of_eq {s t : State} {c : Nat} {todo todo' : List Act} (h : Committing s c todo)
    (hk : .releaseLock ∈ todo' → .releaseLock ∈ todo) (hcom : commits todo' = commits todo)
    (hholds : t.holds c = s.holds c) (hmode : t.mode = s.mode) : Committing t c todo' where
  holds := hholds.trans h.holds
  keepsLock := mt hk h.keepsLock
  bus := hcom ▸ h.bus
  mode := hmode.trans h.mode

/-- A client at its `commit` commits a resolved bus, and nothing after it. -/
theorem Committing.head {s : State} {c : Nat} {b : BusMode} {rest : List Act} (h : Committing s c (.commit b :: rest)) :
    b.resolved = true ∧ commits rest = [] := by
  obtain ⟨b', hb, hres⟩ := h.bus
  obtain ⟨rfl, hrest⟩ := List.cons.inj (show b :: commits rest = [b'] from hb)
  exact ⟨hres, hrest⟩

section
variable {s t : State} {f : Session → Session}

theorem State.mode_eq_of_map (h : t.session = s.session.map f) (hf : ∀ S, (f S).busMode = S.busMode) :
    t.mode = s.mode := by
  rw [State.mode, State.mode, h, Option.map_map]
  exact Option.map_congr fun S _ => hf S

theorem State.mode_of_session_eq (h : t.session = s.session) : t.mode = s.mode := by
  rw [State.mode, State.mode, h]

end

section
variable {s t : State} {c : Nat} {cl cl' : Client} {r : Running} {a : Act} {rest : List Act}

/-- What an action does to the bus mode: nothing, its commit, or the making of a session where there was none. -/
theorem ActMoves.mode_cases (hm : ActMoves s c cl r a rest t.session cl') (ht : r.todo = a :: rest)
    (hp : s.actPossible r = true) :
    t.mode = s.mode ∨ (∃ b, a = .commit b ∧ t.mode = s.mode.map fun _ => b) ∨
      (s.session = none ∧ t.session = some Session.fresh) := by
  generalize hS : t.session = S' at hm ⊢
  cases hm with
  | ends f _ hf _ _ => exact .inl (State.mode_eq_of_map hS fun S => (hf S).2.1)
  | claims bit bank S _ _ hSs _ _ _ _ => exact .inl (by simp [State.mode, hS, hSs])
  | goesOn _ _ _ _ _ _ _ _ _ => exact .inl (State.mode_of_session_eq hS)
  | locks _ _ _ _ _ _ => exact .inl (State.mode_eq_of_map hS fun _ => rfl)
  | unlocks _ _ _ _ _ _ => exact .inl (State.mode_eq_of_map hS fun S => S.release_busMode c)
  | commits b _ _ ha _ _ _ =>
    refine .inr (.inl ⟨b, ha, ?_⟩)
    rw [State.mode, State.mode, hS, Option.map_map, Option.map_map]
    rfl
  | frees _ _ _ _ _ _ _ => exact .inl (State.mode_eq_of_map hS fun _ => rfl)
  | turns f _ _ hf _ _ _ => exact .inl (State.mode_eq_of_map hS fun S => (hf S).2.1)
  | opens _ ha _ _ =>
    subst ha
    exact .inr (.inr ⟨State.actPossible_makeSession ht hp, rfl⟩)
  | stays _ _ _ _ _ => exact .inl (State.mode_of_session_eq hS)

theorem gpioWriteBack_commits (atomic : Bool) (bank : Bank) (bit : Nat) (level : Bool) (v : Byte) :
    commits (gpioWriteBack atomic bank bit level v) = [] := by
  cases atomic <;> rfl

theorem SpiSpeed.resolve_ne_auto (speed : SpiSpeed) : speed.resolve ≠ .auto := by cases speed <;> decide

theorem I2cSpeed.resolve_ne_auto (speed : I2cSpeed) : speed.resolve ≠ .auto := by cases speed <;> decide

/-- `requestSpi` is to commit a bus only where none is, under the lock it keeps, and at a resolved speed (R108). -/
theorem requestSpiBody_committing {mode : BusMode} {speed : SpiSpeed} (hh : t.holds c = true)
    (hmode : t.mode = some mode) (hcom : commits (requestSpiBody mode speed) ≠ []) :
    Committing t c (requestSpiBody mode speed) := by
  cases mode with
  | uncommitted =>
    exact ⟨hh, by simp [requestSpiBody], ⟨_, rfl, by simp [BusMode.resolved, speed.resolve_ne_auto]⟩, hmode⟩
  | spi committed =>
    simp only [requestSpiBody] at hcom
    split at hcom <;> exact absurd rfl hcom
  | i2c committed => exact absurd rfl hcom

/-- `requestI2c` likewise (R109). -/
theorem requestI2cBody_committing {mode : BusMode} {speed : I2cSpeed} (hh : t.holds c = true)
    (hmode : t.mode = some mode) (hcom : commits (requestI2cBody mode speed) ≠ []) :
    Committing t c (requestI2cBody mode speed) := by
  cases mode with
  | uncommitted =>
    exact ⟨hh, by simp [requestI2cBody], ⟨_, rfl, by simp [BusMode.resolved, speed.resolve_ne_auto]⟩, hmode⟩
  | i2c committed =>
    simp only [requestI2cBody] at hcom
    split at hcom <;> exact absurd rfl hcom
  | spi committed => exact absurd rfl hcom

/-- A client that is to commit a bus goes on so, or has committed it; and one comes to be so by its match on an
uncommitted bus. -/
theorem committing_of_actMoves (hm : ActMoves s c cl r a rest t.session cl') (ht : r.todo = a :: rest)
    (hp : s.actPossible r = true) (hg : guarded (s.holds c) (a :: rest) = true)
    (h : commits (a :: rest) ≠ [] → Committing s c (a :: rest)) {r' : Running} (hr' : cl'.running = some r')
    (hcom : commits r'.todo ≠ []) : Committing t c r'.todo := by
  generalize hS : t.session = S' at hm
  cases hm with
  | ends _ _ _ hr _ => simp [hr] at hr'
  | claims _ _ _ _ _ _ _ _ hr _ => simp [hr] at hr'
  | opens _ _ hr _ => simp [hr] at hr'
  | goesOn _ _ hr htodo _ _ _ hc _ =>
    obtain rfl := Option.some.inj (hr.symm.trans hr')
    rw [htodo, ← commits_cons hc rest] at hcom
    exact (h hcom).of_eq (htodo ▸ List.mem_cons_of_mem _) (htodo ▸ (commits_cons hc rest).symm)
      (State.holds_of_session_eq hS c) (State.mode_of_session_eq hS)
  | frees i _ _ ha hr htodo _ =>
    obtain rfl := Option.some.inj (hr.symm.trans hr')
    subst ha
    rw [htodo] at hcom
    exact (h hcom).of_eq (htodo ▸ List.mem_cons_of_mem _) (htodo ▸ rfl)
      (State.holds_eq_of_lock_eq hS (fun _ => rfl) c) (State.mode_eq_of_map hS fun _ => rfl)
  | stays _ _ hr htodo _ =>
    obtain rfl := Option.some.inj (hr.symm.trans hr')
    rw [htodo, ht] at hcom ⊢
    exact (h hcom).of_eq id rfl (State.holds_of_session_eq hS c) (State.mode_of_session_eq hS)
  | locks _ _ ha hr htodo _ =>
    obtain rfl := Option.some.inj (hr.symm.trans hr')
    subst ha
    have hholds := (h (htodo ▸ hcom)).holds
    rw [State.holds_of_lockFree (State.actPossible_takeLock ht hp)] at hholds
    cases hholds
  | unlocks _ _ ha hr htodo _ =>
    obtain rfl := Option.some.inj (hr.symm.trans hr')
    subst ha
    exact absurd List.mem_cons_self (h (htodo ▸ hcom)).keepsLock
  | commits b _ _ ha hr htodo _ =>
    obtain rfl := Option.some.inj (hr.symm.trans hr')
    subst ha
    exact absurd (htodo ▸ (h (List.cons_ne_nil _ _)).head.2) hcom
  | turns f _ _ hf hr _ htodo =>
    obtain rfl := Option.some.inj (hr.symm.trans hr')
    have hmode : t.mode = s.mode := State.mode_eq_of_map hS fun S => (hf S).2.1
    have hholds := State.holds_eq_of_lock_eq hS (fun S => (hf S).1) c
    have hheld := held_of_guarded hg
    rcases htodo with ⟨rfl, htodo⟩ | ⟨_, _, _, _, rfl, htodo⟩ | ⟨_, _, rfl, htodo⟩ | ⟨_, S, rfl, hs, htodo⟩ |
      ⟨_, S, rfl, hs, htodo⟩ <;> rw [htodo] at hcom ⊢
    · exact absurd rfl hcom
    · exact absurd (gpioWriteBack_commits _ _ _ _ _) hcom
    · exact (h hcom).of_eq (by simp) rfl hholds hmode
    · exact requestSpiBody_committing (hholds.trans (hheld rfl)) (hmode.trans (State.mode_eq_some.2 ⟨S, hs, rfl⟩)) hcom
    · exact requestI2cBody_committing (hholds.trans (hheld rfl)) (hmode.trans (State.mode_eq_some.2 ⟨S, hs, rfl⟩)) hcom

/-- While another client holds the lock, an action of client `c` leaves the bus as it is. -/
theorem mode_of_actMoves_of_holds (hm : ActMoves s c cl r a rest t.session cl') (ht : r.todo = a :: rest)
    (hp : s.actPossible r = true) (hg : guarded (s.holds c) (a :: rest) = true) {d : Nat} (hd : d ≠ c)
    (hholds : s.holds d = true) : t.mode = s.mode := by
  rcases hm.mode_cases ht hp with h | ⟨b, rfl, _⟩ | ⟨hnone, _⟩
  · exact h
  · exact absurd (State.holds_unique hholds (held_of_guarded hg rfl)) hd
  · simp [State.holds_of_none hnone] at hholds

end

theorem dropPinPlan_commits (release : Bool) (pin : PinHandle) : commits (dropPinPlan release pin) = [] := by
  cases release <;> rfl

theorem planOf_commits (params : Params) (cl : Client) (call : Call) : commits (planOf params cl call) = [] := by
  by_cases hdrop : ∃ k, call = .dropPin k
  · obtain ⟨k, rfl⟩ := hdrop
    rw [planOf, onPin]
    cases cl.pin k with
    | none => rfl
    | some pin => exact dropPinPlan_commits _ _
  · exact (planOf_shape params cl fun k hk => hdrop ⟨k, hk⟩).commits

theorem SessionMoves.commitInv {s t : State} (hm : SessionMoves s t) (hl : LockInv s) (h : CommitInv s) :
    CommitInv t := by
  cases hm with
  | keeps hS hC =>
    rw [commitInv_iff] at h ⊢
    intro c cl r hc hr hcom
    exact (h c cl r (hC ▸ hc) hr hcom).of_eq id rfl (State.holds_of_session_eq hS c) (State.mode_of_session_eq hS)
  | acts hc hr ht hp hC hm =>
    have hg := hl.todo_guarded hc hr
    have hothers := (hm.keepsDiscipline ht hp hg).others
    have hcom := commitInv_iff.1 h _ _ _ hc hr
    rw [ht] at hg hcom
    refine h.of_step hC (fun d hd hh => ⟨(hothers d hd).trans hh, mode_of_actMoves_of_holds hm ht hp hg hd hh⟩) ?_
    exact fun r' hr' => committing_of_actMoves hm ht hp hg hcom hr'
  | returns res hc hr hS hC =>
    refine h.of_step hC (fun d hd hh => ⟨?_, State.mode_eq_of_map hS fun S => S.release_busMode _⟩) ?_
    · simp [State.holds_of_released hS fun _ => rfl, hd, hh]
    · simp
  | starts calls op hc hr hp hS ht hC =>
    refine h.of_step hC (fun d _ hh => ⟨(State.holds_of_session_eq hS d).trans hh, State.mode_of_session_eq hS⟩) ?_
    rintro r' hr' hcom
    obtain rfl := Option.some.inj hr'
    exact absurd (ht ▸ planOf_commits _ _ _) hcom
  | tearsDown hS hC =>
    intro c cl r hc hr
    simp [(hC cl (List.mem_of_getElem? hc)).1] at hr

/-- What a step does to the bus mode: nothing, the commit of a resolved bus where none was, or the end or the making of
the session. -/
theorem SessionMoves.mode_cases {s t : State} (hm : SessionMoves s t) (h : CommitInv s) :
    t.mode = s.mode ∨ (s.mode = some .uncommitted ∧ ∃ b, b.resolved = true ∧ t.mode = some b) ∨ t.session = none ∨
      (s.session = none ∧ t.session = some Session.fresh) := by
  cases hm with
  | keeps hS _ => exact .inl (State.mode_of_session_eq hS)
  | acts hc hr ht hp _ hm =>
    rcases hm.mode_cases ht hp with hmode | ⟨b, rfl, hmode⟩ | hfresh
    · exact .inl hmode
    · have hcom := commitInv_iff.1 h _ _ _ hc hr
      rw [ht] at hcom
      have hcommitting := hcom (List.cons_ne_nil _ _)
      exact .inr (.inl ⟨hcommitting.mode, b, hcommitting.head.1, by rw [hmode, hcommitting.mode]; rfl⟩)
    · exact .inr (.inr (.inr hfresh))
  | returns _ _ _ hS _ => exact .inl (State.mode_eq_of_map hS fun S => S.release_busMode _)
  | starts _ _ _ _ _ hS _ _ => exact .inl (State.mode_of_session_eq hS)
  | tearsDown hS _ => exact .inr (.inr (.inl hS))

theorem SessionMoves.busInv {s t : State} (hm : SessionMoves s t) (h : BusInv s) : BusInv t := by
  obtain ⟨hl, hcommit, hresolved⟩ := h
  refine ⟨hm.lockInv hl, hm.commitInv hl hcommit, resolved_iff.2 fun b hb => ?_⟩
  rcases hm.mode_cases hcommit with hmode | ⟨_, b', hb', hmode⟩ | hnone | ⟨_, hfresh⟩
  · exact resolved_iff.1 hresolved b (hmode ▸ hb)
  · obtain rfl := Option.some.inj (hmode.symm.trans hb)
    exact hb'
  · simp [State.mode, hnone] at hb
  · simp only [State.mode, hfresh, Option.map_some, Option.some.injEq] at hb
    subst hb
    rfl

/-- A committed bus stays committed as it is while the session lasts. -/
theorem SessionMoves.keepsCommitted {s t : State} (hm : SessionMoves s t) (h : BusInv s) {b : BusMode}
    (hb : s.mode = some b) (hne : b ≠ .uncommitted) : t.session = none ∨ t.mode = some b := by
  obtain ⟨_, hcommit, _⟩ := h
  rcases hm.mode_cases hcommit with hmode | ⟨hun, _⟩ | hnone | ⟨hnone, _⟩
  · exact .inr (hmode.trans hb)
  · exact absurd (Option.some.inj (hb.symm.trans hun)) hne
  · exact .inl hnone
  · simp [State.mode, hnone] at hb

/-! ### The pins (R25, R27, R111, R112) -/

/-- In `t` a flag that is false in `s` is false, and its session is there. -/
def KeepsFlagDown (s t : State) (i : Nat) : Prop :=
  ∀ S, s.session = some S → S.available i = false → ∃ T, t.session = some T ∧ T.available i = false

theorem nodup_of_subperm {α : Type} {l l' : List α} (h : List.Subperm l l') (hn : l'.Nodup) : l.Nodup := by
  obtain ⟨_, hperm, hsub⟩ := h
  exact hperm.nodup_iff.1 (hn.sublist hsub)

/-- The invariant passes to a state that accounts for no more flags, and leaves down those it accounts for. -/
theorem PinInv.of_subperm {s t : State} (h : PinInv s) (hclaims : List.Subperm t.pinClaims s.pinClaims)
    (hflags : ∀ i ∈ t.pinClaims, KeepsFlagDown s t i) : PinInv t := by
  obtain ⟨hnodup, hdown⟩ := h
  refine ⟨nodup_of_subperm hclaims hnodup, fun i hi => ?_⟩
  obtain ⟨S, hS, hav⟩ := hdown i (hclaims.subset hi)
  exact hflags i hi S hS hav

/-- Without a session no flag is accounted for. -/
theorem PinInv.pinClaims_eq_nil {s : State} (h : PinInv s) (hS : s.session = none) : s.pinClaims = [] := by
  obtain ⟨_, hdown⟩ := h
  refine List.eq_nil_iff_forall_not_mem.2 fun i hi => ?_
  obtain ⟨S, hS', _⟩ := hdown i hi
  simp [hS] at hS'

section
variable {s t : State} {i : Nat}

theorem KeepsFlagDown.of_map {f : Session → Session} (h : t.session = s.session.map f)
    (hf : ∀ S, (f S).pinAvailable = S.pinAvailable) : KeepsFlagDown s t i := by
  intro S hS hav
  exact ⟨f S, by rw [h, hS]; rfl, by rw [← hav, Session.available, Session.available, hf]⟩

theorem KeepsFlagDown.of_session_eq (h : t.session = s.session) : KeepsFlagDown s t i :=
  fun S hS hav => ⟨S, h.trans hS, hav⟩

/-- A flag set again leaves the others as they are. -/
theorem KeepsFlagDown.of_setAvailable {j : Nat} {v : Bool} (h : t.session = s.session.map fun S => S.setAvailable j v)
    (hij : j ≠ i) : KeepsFlagDown s t i := by
  intro S hS hav
  exact ⟨S.setAvailable j v, by rw [h, hS]; rfl, by simp [Session.available_setAvailable, hij, hav]⟩

end

/-- A list with one element replaced, up to order: the others stay. -/
theorem flatMap_set_perm {α β : Type} {l : List α} {c : Nat} (hc : c < l.length) (f : α → List β) :
    ∃ others, ∀ x, List.Perm ((l.set c x).flatMap f) (f x ++ others) := by
  refine ⟨(l.take c).flatMap f ++ (l.drop (c + 1)).flatMap f, fun x => ?_⟩
  rw [List.set_eq_take_append_cons_drop, if_pos hc, List.flatMap_append, List.flatMap_cons]
  exact List.perm_append_comm_assoc _ _ _

/-- Setting an element to what it is changes nothing. -/
theorem set_eq_self_of_getElem? {α : Type} {l : List α} {c : Nat} {x : α} (h : l[c]? = some x) : l.set c x = l := by
  obtain ⟨_, rfl⟩ := List.getElem?_eq_some_iff.1 h
  exact List.set_getElem_self _

/-- Where one client gives up the flags `gone` and comes to account for `new`, so does the machine. -/
theorem pinClaims_exchange {s t : State} {c : Nat} {cl cl' : Client} (gone new : List Nat)
    (hc : s.clients[c]? = some cl) (hC : t.clients = s.clients.set c cl')
    (h : List.Subperm (gone ++ cl'.pinClaims) (new ++ cl.pinClaims)) :
    List.Subperm (gone ++ t.pinClaims) (new ++ s.pinClaims) := by
  obtain ⟨hlt, _⟩ := List.getElem?_eq_some_iff.1 hc
  obtain ⟨others, hset⟩ := flatMap_set_perm hlt Client.pinClaims
  have hs : List.Perm s.pinClaims (cl.pinClaims ++ others) := by
    simpa [State.pinClaims, set_eq_self_of_getElem? hc] using hset cl
  have ht : List.Perm t.pinClaims (cl'.pinClaims ++ others) := by simpa [State.pinClaims, hC] using hset cl'
  have hwith := (List.subperm_append_right others).2 h
  rw [List.append_assoc, List.append_assoc] at hwith
  exact (ht.append_left gone).subperm.trans (hwith.trans (hs.append_left new).symm.subperm)

/-- A client with the same pin handles and no more flags to set again accounts for no more flags. -/
theorem Client.pinClaims_subperm {cl cl' : Client} (hp : cl'.pins = cl.pins)
    (hr : List.Subperm cl'.pinsReturning cl.pinsReturning) : List.Subperm cl'.pinClaims cl.pinClaims := by
  rw [Client.pinClaims, Client.pinClaims, Client.pinsHeld, hp]
  exact (List.subperm_append_left _).2 hr

theorem Client.pinsReturning_none {cl : Client} (h : cl.running = none) : cl.pinsReturning = [] := by
  rw [Client.pinsReturning, h]

theorem Client.pinsReturning_some {cl : Client} {r : Running} (h : cl.running = some r) :
    cl.pinsReturning = pinsFreed r.todo := by
  rw [Client.pinsReturning, h]

/-- The flags that one slot of a client's pin handles stands for. -/
def slotClaims (slot : Option PinHandle) : List Nat := (slot.map fun p => pinIndex p.bit p.bank).toList

theorem Client.pinsHeld_eq (cl : Client) : cl.pinsHeld = cl.pins.flatMap slotClaims := by
  rw [Client.pinsHeld]
  induction cl.pins with
  | nil => rfl
  | cons slot slots ih =>
    rw [List.flatMap_cons, ← ih]
    cases slot <;> rfl

/-- `acquirePin` adds the flag of the pin it hands out. -/
theorem Client.pinClaims_claimed {cl cl' : Client} {pin : PinHandle} (hp : cl'.pins = cl.pins ++ [some pin])
    (hr : cl'.running = none) : List.Subperm cl'.pinClaims ([pinIndex pin.bit pin.bank] ++ cl.pinClaims) := by
  have hheld : cl'.pinClaims = cl.pinsHeld ++ [pinIndex pin.bit pin.bank] := by
    rw [Client.pinClaims, Client.pinsReturning_none hr, Client.pinsHeld_eq, Client.pinsHeld_eq, hp]
    simp [slotClaims]
  rw [hheld, Client.pinClaims, ← List.append_assoc]
  exact List.perm_append_comm.subperm.trans (List.sublist_append_left _ _).subperm

theorem dropPinPlan_pinsFreed (release : Bool) (pin : PinHandle) :
    List.Subperm (pinsFreed (dropPinPlan release pin)) [pinIndex pin.bit pin.bank] := by
  cases release
  · exact List.nil_subperm
  · exact List.Subperm.refl _

/-- The end of a pin handle's lifetime: its flag passes from the handles to the operation, which may set it again. -/
theorem Client.pinClaims_dropPin {params : Params} {cl cl' : Client} {k : Nat} {pin : PinHandle} {op : Running}
    (hpin : cl.pin k = some pin) (hp : cl'.pins = cl.pins.set k none) (hr : cl'.running = some op)
    (ht : op.todo = planOf params cl (.dropPin k)) : List.Subperm cl'.pinClaims cl.pinClaims := by
  have hslot : cl.pins[k]? = some (some pin) := Option.join_eq_some_iff.1 hpin
  obtain ⟨hlt, _⟩ := List.getElem?_eq_some_iff.1 hslot
  obtain ⟨others, hset⟩ := flatMap_set_perm hlt slotClaims
  have hbefore : List.Perm cl.pinsHeld ([pinIndex pin.bit pin.bank] ++ others) := by
    have hsame := hset (some pin)
    rwa [set_eq_self_of_getElem? hslot, ← Client.pinsHeld_eq] at hsame
  have hafter : List.Perm cl'.pinsHeld others := by
    rw [Client.pinsHeld_eq, hp]
    exact hset none
  have hfreed : List.Subperm cl'.pinsReturning [pinIndex pin.bit pin.bank] := by
    rw [Client.pinsReturning_some hr, ht, planOf, onPin, hpin]
    exact dropPinPlan_pinsFreed _ _
  have hheld : List.Subperm cl'.pinClaims cl.pinsHeld :=
    (hafter.subperm.append hfreed).trans (List.perm_append_comm.trans hbefore.symm).subperm
  exact hheld.trans (List.sublist_append_left _ _).subperm

theorem gpioWriteBack_pinsFreed (atomic : Bool) (bank : Bank) (bit : Nat) (level : Bool) (v : Byte) :
    pinsFreed (gpioWriteBack atomic bank bit level v) = [] := by
  cases atomic <;> rfl

theorem requestSpiBody_pinsFreed (mode : BusMode) (speed : SpiSpeed) : pinsFreed (requestSpiBody mode speed) = [] := by
  cases mode with
  | spi committed => simp only [requestSpiBody]; split <;> rfl
  | _ => rfl

theorem requestI2cBody_pinsFreed (mode : BusMode) (speed : I2cSpeed) : pinsFreed (requestI2cBody mode speed) = [] := by
  cases mode with
  | i2c committed => simp only [requestI2cBody]; split <;> rfl
  | _ => rfl

section
variable {s t : State} {c : Nat} {cl cl' : Client} {r : Running} {a : Act} {rest : List Act}

/-- One client comes to account for no more flags, and no flag is set again. -/
theorem PinInv.of_client (h : PinInv s) (hc : s.clients[c]? = some cl) (hC : t.clients = s.clients.set c cl')
    (hclaims : List.Subperm cl'.pinClaims cl.pinClaims) (hflags : ∀ i, KeepsFlagDown s t i) : PinInv t :=
  h.of_subperm (pinClaims_exchange [] [] hc hC hclaims) fun i _ => hflags i

/-- One client gets the handle of an available pin, whose flag is cleared. -/
theorem PinInv.of_claim {S : Session} {pin : PinHandle} (h : PinInv s) (hc : s.clients[c]? = some cl)
    (hC : t.clients = s.clients.set c cl') (hS : s.session = some S)
    (hT : t.session = some ((S.setAvailable (pinIndex pin.bit pin.bank) false).release c))
    (hv : pinValid pin.bit pin.bank = true) (hav : S.available (pinIndex pin.bit pin.bank) = true)
    (hp : cl'.pins = cl.pins ++ [some pin]) (hr : cl'.running = none) : PinInv t := by
  obtain ⟨hnodup, hdown⟩ := h
  have hclaims := pinClaims_exchange [] _ hc hC (Client.pinClaims_claimed hp hr)
  have hflag : ∀ i ∈ s.pinClaims, S.available i = false := by
    intro i hi
    obtain ⟨S', hS', hi⟩ := hdown i hi
    obtain rfl := Option.some.inj (hS.symm.trans hS')
    exact hi
  have hfresh : pinIndex pin.bit pin.bank ∉ s.pinClaims := by
    intro hmem
    rw [hflag _ hmem] at hav
    cases hav
  refine ⟨nodup_of_subperm hclaims (List.nodup_cons.2 ⟨hfresh, hnodup⟩), fun i hi => ⟨_, hT, ?_⟩⟩
  rw [Session.release_available, Session.available_setAvailable]
  rcases List.mem_cons.1 (hclaims.subset hi) with rfl | hi
  · rw [if_pos ⟨rfl, pinIndex_lt hv⟩]
  · split
    · rfl
    · exact hflag i hi

/-- An operation sets a flag again, which nothing accounts for from then on. -/
theorem PinInv.of_free {i : Nat} (h : PinInv s) (hc : s.clients[c]? = some cl) (hC : t.clients = s.clients.set c cl')
    (hT : t.session = s.session.map fun S => S.setAvailable i true)
    (hclaims : List.Subperm (i :: cl'.pinClaims) cl.pinClaims) : PinInv t := by
  have hall : List.Subperm (i :: t.pinClaims) s.pinClaims := pinClaims_exchange [i] [] hc hC hclaims
  have ⟨hnodup, _⟩ := h
  have ⟨hgone, _⟩ := List.nodup_cons.1 (nodup_of_subperm hall hnodup)
  refine h.of_subperm ((List.sublist_cons_self _ _).subperm.trans hall) fun j hj => ?_
  exact .of_setAvailable hT fun hij => hgone (hij ▸ hj)

/-- Without a session nothing is accounted for, and the making of one changes nothing in that. -/
theorem PinInv.of_open (h : PinInv s) (hc : s.clients[c]? = some cl) (hC : t.clients = s.clients.set c cl')
    (hS : s.session = none) (hclaims : List.Subperm cl'.pinClaims cl.pinClaims) : PinInv t := by
  refine h.of_subperm (pinClaims_exchange [] [] hc hC hclaims) fun _ _ S hS' => ?_
  simp [hS] at hS'

/-- Every action keeps the pin invariant. -/
theorem PinInv.of_actMoves (h : PinInv s) (hc : s.clients[c]? = some cl) (hr : cl.running = some r)
    (ht : r.todo = a :: rest) (hp : s.actPossible r = true) (hC : t.clients = s.clients.set c cl')
    (hm : ActMoves s c cl r a rest t.session cl') : PinInv t := by
  have hold : cl.pinsReturning = pinsFreed (a :: rest) := ht ▸ Client.pinsReturning_some hr
  have hends : cl'.pins = cl.pins → cl'.running = none → List.Subperm cl'.pinClaims cl.pinClaims :=
    fun hpins hnone => Client.pinClaims_subperm hpins (Client.pinsReturning_none hnone ▸ List.nil_subperm)
  have hgoes : ∀ r', cl'.pins = cl.pins → cl'.running = some r' →
      List.Subperm (pinsFreed r'.todo) (pinsFreed (a :: rest)) → List.Subperm cl'.pinClaims cl.pinClaims :=
    fun r' hpins hr' hsub => Client.pinClaims_subperm hpins (by rwa [hold, Client.pinsReturning_some hr'])
  generalize hS : t.session = S' at hm
  cases hm with
  | ends f _ hf hnone hpins => exact h.of_client hc hC (hends hpins hnone) fun _ => .of_map hS fun S => (hf S).2.2
  | claims bit bank S _ _ hSs hv hav hnone hpins => exact h.of_claim hc hC hSs hS hv hav hpins hnone
  | goesOn _ r' hr' htodo hpins _ _ _ hi =>
    refine h.of_client hc hC (hgoes r' hpins hr' ?_) fun _ => .of_session_eq hS
    rw [htodo, pinsFreed_cons hi]
  | locks _ r' ha hr' htodo hpins =>
    refine h.of_client hc hC (hgoes r' hpins hr' ?_) fun _ => .of_map hS fun _ => rfl
    rw [htodo, pinsFreed_cons (by simp [ha])]
  | unlocks _ r' ha hr' htodo hpins =>
    refine h.of_client hc hC (hgoes r' hpins hr' ?_) fun _ => .of_map hS fun S => S.release_pinAvailable c
    rw [htodo, pinsFreed_cons (by simp [ha])]
  | commits b _ r' ha hr' htodo hpins =>
    refine h.of_client hc hC (hgoes r' hpins hr' ?_) fun _ => .of_map hS fun _ => rfl
    rw [htodo, pinsFreed_cons (by simp [ha])]
  | frees i _ r' ha hr' htodo hpins =>
    subst ha
    refine h.of_free hc hC hS ?_
    rw [Client.pinClaims, Client.pinClaims, hold, Client.pinsReturning_some hr', htodo, Client.pinsHeld, hpins]
    exact List.perm_middle.symm.subperm
  | turns f _ r' hf hr' hpins htodo =>
    refine h.of_client hc hC (hgoes r' hpins hr' ?_) fun _ => .of_map hS fun S => (hf S).2.2
    rcases htodo with ⟨rfl, htodo⟩ | ⟨_, _, _, _, rfl, htodo⟩ | ⟨_, _, rfl, htodo⟩ | ⟨_, _, rfl, _, htodo⟩ |
      ⟨_, _, rfl, _, htodo⟩ <;> rw [htodo]
    · exact List.nil_subperm
    · exact gpioWriteBack_pinsFreed _ _ _ _ _ ▸ List.nil_subperm
    · exact List.Subperm.refl _
    · exact requestSpiBody_pinsFreed _ _ ▸ List.nil_subperm
    · exact requestI2cBody_pinsFreed _ _ ▸ List.nil_subperm
  | opens _ ha hnone hpins =>
    subst ha
    exact h.of_open hc hC (State.actPossible_makeSession ht hp) (hends hpins hnone)
  | stays _ r' hr' htodo hpins =>
    refine h.of_client hc hC (hgoes r' hpins hr' ?_) fun _ => .of_session_eq hS
    rw [htodo, ht]

end

/-- Only `dropPin` ends the lifetime of a handle. -/
theorem Client.dropped_of_ne (cl : Client) {call : Call} (h : ∀ k, call ≠ .dropPin k) : cl.dropped call = cl := by
  cases call with
  | dropPin k => exact absurd rfl (h k)
  | _ => rfl

/-- The start of a call: its client accounts for no more flags than before. -/
theorem Client.pinClaims_started {s : State} {cl : Client} {call : Call} (calls : List Call) {op : Running}
    (hp : s.callPossible cl call = true) (ht : op.todo = planOf s.params cl call) :
    List.Subperm { cl.dropped call with calls := calls, running := some op : Client }.pinClaims cl.pinClaims := by
  by_cases hdrop : ∃ k, call = .dropPin k
  · obtain ⟨k, rfl⟩ := hdrop
    simp only [State.callPossible, Bool.and_eq_true] at hp
    obtain ⟨pin, hpin⟩ := Option.isSome_iff_exists.1 hp.2
    exact Client.pinClaims_dropPin hpin rfl rfl ht
  · have hne : ∀ k, call ≠ .dropPin k := fun k hk => hdrop ⟨k, hk⟩
    refine Client.pinClaims_subperm (by rw [cl.dropped_of_ne hne]) ?_
    rw [Client.pinsReturning_some rfl, ht, (planOf_shape _ _ hne).pinsFreed]
    exact List.nil_subperm

theorem SessionMoves.pinInv {s t : State} (hm : SessionMoves s t) (h : PinInv s) : PinInv t := by
  cases hm with
  | keeps hS hC =>
    have hclaims : t.pinClaims = s.pinClaims := by rw [State.pinClaims, hC, State.pinClaims]
    exact h.of_subperm (hclaims ▸ List.Subperm.refl _) fun _ _ => .of_session_eq hS
  | acts hc hr ht hp hC hm => exact h.of_actMoves hc hr ht hp hC hm
  | returns res hc hr hS hC =>
    refine h.of_client hc hC (Client.pinClaims_subperm rfl ?_) fun _ => .of_map hS fun S => S.release_pinAvailable _
    exact List.nil_subperm
  | starts calls op hc _ hp hS ht hC =>
    exact h.of_client hc hC (Client.pinClaims_started calls hp ht) fun _ => .of_session_eq hS
  | tearsDown hS hC =>
    have hnil : t.pinClaims = [] := by
      refine List.flatMap_eq_nil_iff.2 fun cl hcl => ?_
      obtain ⟨hrun, hpins⟩ := hC cl hcl
      rw [Client.pinClaims, Client.pinsReturning_none hrun, Client.pinsHeld, hpins]
      rfl
    simp [PinInv, hnil]

/-! ### The obligations -/

/-- Settles O56: a step's change of the session and the clients keeps the lock discipline, the rule that who is to
commit a bus is alone in that, and the resolved speed; and it changes the bus mode only where none is committed. -/
theorem stepKeepsTheBusInvariant : Obligations.StepKeepsTheBusInvariant := by
  intro s t h hstep
  obtain ⟨o, hm⟩ := step_sessionMoves hstep
  have hs : BusInv (s.withOracle o) := h
  refine ⟨hm.busInv hs, fun S hS hne => ?_⟩
  have hmode : (s.withOracle o).mode = some S.busMode := State.mode_eq_some.2 ⟨S, hS, rfl⟩
  exact (hm.keepsCommitted hs hmode hne).imp_right State.mode_eq_some.1

/-- Settles O57: a step hands out only an available pin, and sets a flag again only when its handle has gone. -/
theorem stepKeepsThePinInvariant : Obligations.StepKeepsThePinInvariant := by
  intro s t h hstep
  obtain ⟨o, hm⟩ := step_sessionMoves hstep
  exact hm.pinInv (s := s.withOracle o) h

/-- Settles O53: each kind of step appends to the queue, flushes it, takes from its front, or replaces it whole. -/
theorem stepKeepsTheQueueWellFormed : Obligations.StepKeepsTheQueueWellFormed := by
  intro s t h hstep
  cases step_is hstep with
  | @command _ rest _ _ he => exact exec_queueOk (s := s.withStream rest) h he
  | passive _ => exact h
  | acts o _ _ _ _ => exact State.runAct_queueOk (s := s.withOracle o) _ _ _ h
  | returns _ _ _ _ => exact h
  | starts o _ _ _ _ => exact State.startCall_queueOk (s := s.withOracle o) _ _ _ _ h

/-- Settles O23: each field of `State.reset`, read off its definition. -/
theorem resetIsTheStateAfterOpen : Obligations.ResetIsTheStateAfterOpen :=
  ⟨rfl, rfl, rfl, rfl, rfl, rfl, rfl, rfl, rfl⟩

/-- Settles O35: valid descriptors and places determine each other, and the pin at a place has the descriptor of that
place. -/
theorem namedPinsAreTheValidDescriptors : Obligations.NamedPinsAreTheValidDescriptors := by
  refine ⟨fun bit bank => ⟨fun h => ⟨_, PinName.descriptor_atPlace h⟩, ?_⟩, fun _ _ h => pinIndex_lt h,
    fun _ _ _ _ h h' he => pinIndex_injective h h' he, fun i hi => ⟨_, PinName.place_atPlace i hi⟩, fun n n' h => ?_⟩
  · rintro ⟨n, hn⟩
    have hvalid := n.descriptor_valid
    rwa [hn] at hvalid
  · rw [← n.atPlace_place, ← n'.atPlace_place, PinName.place, PinName.place, h]

/-- Settles O52: after reset the queue is empty, the lock free, no operation in progress, no bus committed and no pin
handed out. -/
theorem resetMeetsTheInvariants : Obligations.ResetMeetsTheInvariants := by
  have hidle : ∀ (c : Nat) (cl : Client), State.reset.clients[c]? = some cl → cl.running = none :=
    (State.noOperation_iff State.reset).1 rfl
  have hunheld : ∀ c, State.reset.holds c = false := State.holds_of_fresh rfl
  refine ⟨Nat.le_refl 0, ⟨⟨fun c cl r hc hr => ?_, fun c hh => ?_⟩, fun c cl r hc hr => ?_, ?_⟩, ?_⟩
  · simp [hidle c cl hc] at hr
  · simp [hunheld] at hh
  · simp [hidle c cl hc] at hr
  · rintro _ ⟨⟩
    rfl
  · simp [PinInv, show State.reset.pinClaims = [] from rfl]

end Sys2Proof.Machine
end

section
/-! PROOFS. The family of 20_memory.md: a command at the head of the stream is executed (R51), what a `Receive` takes off
the queue (R52), the lock discipline and who makes the transport events (R55, R57), and what a `Send` carries (R51). -/

namespace Sys2Proof.Machine

/-! ### A `Receive` whose bytes are deliverable (R52, R161) -/

/-- In step, where the transport does not fail, deliverable bytes are delivered at once. -/
theorem State.receiveOk_deliverable {s : State} {n : Nat} (c : Nat) (hsync : s.device.sync = true)
    (hflushed : n ≤ s.device.flushed) (hrx : n ≤ s.device.rx.length) :
    s.receiveOk c n = s.deliver c n (s.device.rx.take n) := by
  rw [State.receiveOk, if_pos hsync, if_pos ⟨hflushed, hrx⟩]

/-- A given answer "no failure" makes a `Receive` one that the transport does not fail. -/
theorem State.receive_given_none {s : State} {os : List (Option TransportError)} (c n : Nat)
    (h : s.oracle.outcome.given = none :: os) :
    s.receive c n =
      (s.withOracle { s.oracle with outcome := ⟨os, s.oracle.outcome.used⟩ }).receiveOk c n := by
  rw [State.receive, State.drawOutcome_given h, State.drawOutcome_state, Feed.next_given h]

/-! ### Who makes a transport event (R55, R57) -/

/-- The events that a step from `s` may add: a transport call of the holder of the lock, `open`'s `Send` without a
session, and `Halt`. -/
def State.allows (s : State) : Event → Prop
  | .send c bs _ => s.holds c = true ∨ (s.session = none ∧ bs = openSeq)
  | .receive c _ _ => s.holds c = true
  | .halt => True

/-- `open` sends only while there is no session (R100). -/
theorem State.actPossible_sendOpen {s : State} {r : Running} {rest : List Act} (ht : r.todo = .sendOpen :: rest)
    (h : s.actPossible r = true) : s.session = none := by
  simp only [State.actPossible, ht, Bool.and_eq_true, Option.isNone_iff_eq_none] at h
  exact h.2

/-- An action that makes a transport call other than `open`'s needs the lock, so its client holds it. -/
theorem State.runAct_event {s : State} {c : Nat} {r : Running} {a : Act} {rest : List Act} (ht : r.todo = a :: rest)
    (hp : s.actPossible r = true) (hg : guarded (s.holds c) r.todo = true) :
    (s.runAct c a rest).history = s.history ∨
      ∃ ev, (s.runAct c a rest).history = s.history ++ [ev] ∧ s.allows ev := by
  rw [ht] at hg
  rcases s.runAct_history c a rest with hkeeps | ⟨bs, e, hsend, hwho⟩ | ⟨n, o, hreceive, hneeds⟩ | ⟨hhalt, _⟩
  · exact .inl hkeeps
  · refine .inr ⟨_, hsend, ?_⟩
    rcases hwho with hneeds | ⟨rfl, hbs⟩
    · exact .inl (held_of_guarded hg hneeds)
    · exact .inr ⟨State.actPossible_sendOpen ht hp, hbs⟩
  · exact .inr ⟨_, hreceive, held_of_guarded hg hneeds⟩
  · exact .inr ⟨_, hhalt, trivial⟩

/-- Under the lock discipline a step adds no event, or one that is allowed. -/
theorem step_event {s t : State} (h : LockInv s) (hstep : step s = .next t) :
    t.history = s.history ∨ ∃ ev, t.history = s.history ++ [ev] ∧ s.allows ev := by
  cases step_is hstep with
  | @command i rest _ _ he =>
    obtain ⟨d, o, e, hparts⟩ := exec_parts i (s.withStream rest)
    obtain rfl := Host.Outcome.next.inj (hparts.symm.trans he)
    exact .inl rfl
  | passive _ => exact .inl rfl
  | acts o hc hr ht hp => exact State.runAct_event (s := s.withOracle o) ht hp (h.todo_guarded hc hr)
  | returns _ _ _ _ => exact .inl rfl
  | starts o _ _ _ _ => exact .inl ((s.withOracle o).startCall_history _ _ _ _)

/-- The event a step has added is the one its history ends with. -/
theorem step_allows {s t : State} {ev : Event} (h : LockInv s) (hstep : step s = .next t)
    (hev : t.history = s.history ++ [ev]) : s.allows ev := by
  rcases step_event h hstep with hsame | ⟨ev', hadds, hallows⟩
  · simp [hsame] at hev
  · obtain rfl : ev' = ev := by simpa using hadds.symm.trans hev
    exact hallows

/-! ### What a `Send` carries (R51, R139, R158) -/

/-- `bs` is whole commands of R75, the last of them SEND_IMMEDIATE exactly if they produce response bytes. -/
def WholeSend (bs : List Byte) : Prop :=
  ∃ is, (∀ i ∈ is, i.wellFormed = true) ∧ bs = is.flatMap encode ∧
    (is.getLast? = some .sendImmediate ↔ respCount is ≠ 0)

/-- A command that produces no response byte and is no flush. -/
def silent (i : Instr) : Bool := i.responses == 0 && i != .sendImmediate

theorem respCount_of_silent {is : List Instr} (h : is.all silent = true) : respCount is = 0 := by
  refine List.sum_eq_zero fun n hn => ?_
  obtain ⟨i, hi, rfl⟩ := List.mem_map.1 hn
  have hsilent := List.all_eq_true.1 h i hi
  rw [silent, Bool.and_eq_true] at hsilent
  simpa using hsilent.1

/-- Commands without a response need no flush at their end. -/
theorem WholeSend.of_silent {is : List Instr} (hw : is.all Instr.wellFormed = true) (hs : is.all silent = true) :
    WholeSend (is.flatMap encode) := by
  refine ⟨is, List.all_eq_true.1 hw, rfl, iff_of_false (fun hlast => ?_) (not_not_intro (respCount_of_silent hs))⟩
  have hflush := List.all_eq_true.1 hs _ (List.mem_of_getLast? hlast)
  simp [silent] at hflush

/-- Commands with a response are followed by the flush. -/
theorem WholeSend.of_answered {is : List Instr} (hw : is.all Instr.wellFormed = true) (hr : respCount is ≠ 0) :
    WholeSend (is.flatMap encode ++ flushNow) := by
  refine ⟨is ++ [.sendImmediate], ?_, by simp [flushNow], iff_of_true (by simp) ?_⟩
  · rw [List.forall_mem_append]
    exact ⟨List.all_eq_true.1 hw, by simp [Instr.wellFormed]⟩
  · simpa [respCount, Instr.responses] using hr

theorem openSeq_whole : WholeSend openSeq :=
  .of_silent (is := [.disableDiv5, .disableAdaptive, .disable3Phase, .loopbackDisable,
    .setBitsLow 0x00 Config.openDir, .setBitsHigh 0x00 Config.openDir]) rfl rfl

theorem loopback_whole (enabled : Bool) : WholeSend (loopback enabled) := by
  cases enabled with
  | false => exact .of_silent (is := [.loopbackDisable]) rfl rfl
  | true => exact .of_silent (is := [.loopbackEnable]) rfl rfl

theorem spiSetup_whole (speed : SpiSpeed) : WholeSend (spiSetup speed) :=
  .of_silent (is := [.setBitsLow 0x00 Config.lowDir, .setClockDivisor speed.divisor]) rfl rfl

theorem i2cSetup_whole (speed : I2cSpeed) : WholeSend (i2cSetup speed) :=
  .of_silent (is := [.setBitsLow 0x03 Config.lowDir, .setClockDivisor speed.divisor]) rfl rfl

/-- START sets SDA and SCL high, then SDA low, then both low, each state repeated (R183). -/
theorem i2cStart_whole : WholeSend i2cStart :=
  .of_silent (is := List.replicate Config.i2cRepeat (Instr.setBitsLow 0x03 Config.lowDir)
    ++ List.replicate Config.i2cRepeat (Instr.setBitsLow 0x01 Config.lowDir)
    ++ List.replicate Config.i2cRepeat (Instr.setBitsLow 0x00 Config.lowDir)) rfl rfl

/-- STOP sets SCL high with SDA low, then both high, then releases both, each state repeated (R184). -/
theorem i2cStop_whole : WholeSend i2cStop :=
  .of_silent (is := List.replicate Config.i2cRepeat (Instr.setBitsLow 0x01 Config.lowDir)
    ++ List.replicate Config.i2cRepeat (Instr.setBitsLow 0x03 Config.lowDir)
    ++ List.replicate Config.i2cRepeat (Instr.setBitsLow 0x03 Config.dirRelease)) rfl rfl

theorem i2cWriteByte_whole (b : Byte) : WholeSend (i2cWriteByte b) :=
  .of_answered (is := [.setBitsLow 0x00 Config.lowDir, .msbBytesOutFalling [b], .setBitsLow 0x00 Config.dirSdaIn,
    .msbBitsInRising 1]) rfl (by simp [respCount, Instr.responses])

theorem i2cReadByte_whole (last : Bool) : WholeSend (i2cReadByte last) :=
  .of_answered (is := [.setBitsLow 0x00 Config.dirSdaIn, .msbBytesInRising 1, .setBitsLow 0x00 Config.lowDir,
    .msbBitsOutFalling 1 (if last then 0xFF else 0x00)]) rfl (by simp [respCount, Instr.responses])

theorem gpioRead_whole (bank : Bank) : WholeSend (gpioRead bank) := by
  cases bank with
  | low => exact .of_answered (is := [.getBitsLow]) rfl (by simp [respCount, Instr.responses])
  | high => exact .of_answered (is := [.getBitsHigh]) rfl (by simp [respCount, Instr.responses])

theorem gpioWrite_whole (bank : Bank) (v : Byte) : WholeSend (gpioWrite bank v) := by
  cases bank with
  | low => exact .of_silent (is := [.setBitsLow v (dirOf .low)]) rfl rfl
  | high => exact .of_silent (is := [.setBitsHigh v (dirOf .high)]) rfl rfl

/-- One command with a payload, of the 1 to 65 536 bytes that R72 can encode. -/
theorem spiXfer_whole (m : SpiMode) {p : List Byte} (hp : byteCountOk p.length = true) : WholeSend (spiXfer m p) := by
  obtain ⟨hpos, _⟩ := (byteCountOk_iff _).1 hp
  have hw : (spiInout m p).wellFormed = true := by cases m <;> exact hp
  have hr : (spiInout m p).responses = p.length := by cases m <;> rfl
  rw [spiXfer, ← List.flatMap_singleton encode]
  exact .of_answered (by simp [hw]) (by simp only [respCount, List.map_singleton, List.sum_singleton, hr]; omega)

theorem spiWriteOnly_whole (m : SpiMode) {p : List Byte} (hp : byteCountOk p.length = true) :
    WholeSend (spiWriteOnly m p) := by
  have hw : (spiOut m p).wellFormed = true := by cases m <;> exact hp
  have hs : silent (spiOut m p) = true := by cases m <;> rfl
  rw [spiWriteOnly, ← List.flatMap_singleton encode]
  exact .of_silent (by simp [hw]) (by simp [hs])

/-! ### The sends of the plans -/

/-- An action whose `Send`, if it is one, carries whole commands. -/
def Act.Whole : Act → Prop
  | .send _ bs => WholeSend bs
  | _ => True

/-- Every `Send` of the list carries whole commands. -/
def WholeSends (l : List Act) : Prop := ∀ a ∈ l, a.Whole

theorem WholeSends.nil : WholeSends [] := List.forall_mem_nil _

theorem WholeSends.append {l l' : List Act} (h : WholeSends l) (h' : WholeSends l') : WholeSends (l ++ l') :=
  List.forall_mem_append.2 ⟨h, h'⟩

theorem WholeSends.cons {a : Act} {l : List Act} (ha : a.Whole) (h : WholeSends l) : WholeSends (a :: l) :=
  List.forall_mem_cons.2 ⟨ha, h⟩

theorem WholeSends.flatMap {α : Type} {f : α → List Act} (l : List α) (h : ∀ x, WholeSends (f x)) :
    WholeSends (l.flatMap f) := by
  intro a ha
  obtain ⟨x, _, hx⟩ := List.mem_flatMap.1 ha
  exact h x a hx

theorem WholeSends.ite {p : Prop} [Decidable p] {l l' : List Act} (h : WholeSends l) (h' : WholeSends l') :
    WholeSends (if p then l else l') := by
  split
  · exact h
  · exact h'

/-- A plan that exists only for a handle that is there. -/
theorem WholeSends.getD {α : Type} {x : Option α} {plan : α → List Act} (h : ∀ a, WholeSends (plan a)) :
    WholeSends ((x.map plan).getD []) := by
  cases x with
  | none => exact .nil
  | some a => exact h a

theorem addressPhase_wholeSends (b : Byte) : WholeSends (addressPhase b) :=
  .cons (i2cWriteByte_whole b) (.cons trivial .nil)

theorem writePhase_wholeSends (b : Byte) : WholeSends (writePhase b) :=
  .cons (i2cWriteByte_whole b) (.cons trivial .nil)

theorem readPhase_wholeSends (last : Bool) : WholeSends (readPhase last) :=
  .cons (i2cReadByte_whole last) (.cons trivial .nil)

theorem readPhases_wholeSends (n : Nat) : WholeSends (readPhases n) := .flatMap _ fun _ => readPhase_wholeSends _

/-- Every transaction opens with the START under the lock. -/
theorem i2cOpening_wholeSends : WholeSends [.takeLock, .send .start i2cStart] :=
  .cons trivial (.cons i2cStart_whole .nil)

/-- Every transaction closes with the STOP and its return. -/
theorem i2cClosing_wholeSends {a : Act} (ha : a.Whole) : WholeSends [.send .stop i2cStop, a] :=
  .cons i2cStop_whole (.cons ha .nil)

theorem i2cWritePlan_wholeSends (policy : AddrPolicy) (addr : Byte) (bytes : List Byte) :
    WholeSends (i2cWritePlan policy addr bytes) := by
  refine .ite (.cons trivial .nil) (.ite (.cons trivial .nil) ?_)
  have hwrite := i2cOpening_wholeSends.append (addressPhase_wholeSends (addrW addr)) |>.append
    (.flatMap bytes writePhase_wholeSends)
  exact hwrite.append (i2cClosing_wholeSends trivial)

theorem i2cReadPlan_wholeSends (policy : AddrPolicy) (addr : Byte) (n : Nat) :
    WholeSends (i2cReadPlan policy addr n) := by
  refine .ite (.cons trivial .nil) (.ite (.cons trivial .nil) ?_)
  have hread := i2cOpening_wholeSends.append (addressPhase_wholeSends (addrR addr)) |>.append (readPhases_wholeSends n)
  exact hread.append (i2cClosing_wholeSends trivial)

theorem i2cWriteThenReadPlan_wholeSends (policy : AddrPolicy) (addr : Byte) (bytes : List Byte) (n : Nat) :
    WholeSends (i2cWriteThenReadPlan policy addr bytes n) := by
  have hrestart : WholeSends [.send .repeatedStart i2cStart] := .cons i2cStart_whole .nil
  refine .ite (.cons trivial .nil) (.ite (.cons trivial .nil) ?_)
  have hwrite := i2cOpening_wholeSends.append (addressPhase_wholeSends (addrW addr)) |>.append
    (.flatMap bytes writePhase_wholeSends)
  have hread := hwrite.append hrestart |>.append (addressPhase_wholeSends (addrR addr)) |>.append
    (readPhases_wholeSends n)
  exact hread.append (i2cClosing_wholeSends trivial)

/-- The argument checks of `transfer` and `write` let through only payloads that have an encoding (R223, R272). -/
theorem byteCountOk_of_checked {p : List Byte} (hne : ¬p.isEmpty = true) (hle : ¬Config.maxXfer < p.length) :
    byteCountOk p.length = true := by
  rw [List.isEmpty_iff] at hne
  exact (byteCountOk_iff _).2 ⟨List.length_pos_of_ne_nil hne, Nat.le_of_not_lt hle⟩

theorem spiTransferPlan_wholeSends (m : SpiMode) (p : List Byte) : WholeSends (spiTransferPlan m p) := by
  unfold spiTransferPlan
  split_ifs with hempty hlong
  · exact .cons trivial .nil
  · exact .cons trivial .nil
  · exact .cons trivial (.cons (spiXfer_whole m (byteCountOk_of_checked hempty hlong))
      (.cons trivial (.cons trivial .nil)))

theorem spiWritePlan_wholeSends (m : SpiMode) (p : List Byte) : WholeSends (spiWritePlan m p) := by
  unfold spiWritePlan
  split_ifs with hempty hlong
  · exact .cons trivial .nil
  · exact .cons trivial .nil
  · exact .cons trivial (.cons (spiWriteOnly_whole m (byteCountOk_of_checked hempty hlong)) (.cons trivial .nil))

theorem gpioPlan_wholeSends (pin : PinHandle) (level : Bool) : WholeSends (gpioPlan pin level) :=
  .cons trivial (.cons (gpioRead_whole pin.bank) (.cons trivial .nil))

theorem dropPinPlan_wholeSends (release : Bool) (pin : PinHandle) : WholeSends (dropPinPlan release pin) :=
  .ite (.cons trivial (.cons trivial (.cons trivial .nil))) (.cons trivial .nil)

theorem planOf_wholeSends (params : Params) (cl : Client) (call : Call) : WholeSends (planOf params cl call) := by
  cases call with
  | openSession => exact .cons trivial (.cons trivial (.cons trivial .nil))
  | setLoopback enabled => exact .cons trivial (.cons trivial .nil)
  | requestSpi speed => exact .cons trivial (.cons trivial .nil)
  | requestI2c speed => exact .cons trivial (.cons trivial .nil)
  | acquirePin bit bank => exact .cons trivial (.cons trivial .nil)
  | teardown => exact .nil
  | i2cWrite k addr bytes => exact i2cWritePlan_wholeSends _ _ _
  | i2cRead k addr n => exact i2cReadPlan_wholeSends _ _ _
  | i2cWriteThenRead k addr bytes n => exact i2cWriteThenReadPlan_wholeSends _ _ _ _
  | spiSetMode k cpol cpha => exact .cons trivial .nil
  | spiTransfer k p => exact .getD fun _ => spiTransferPlan_wholeSends _ _
  | spiWrite k p => exact .getD fun _ => spiWritePlan_wholeSends _ _
  | gpioSetHigh k => exact .getD fun _ => gpioPlan_wholeSends _ _
  | gpioSetLow k => exact .getD fun _ => gpioPlan_wholeSends _ _
  | dropPin k => exact .getD fun _ => dropPinPlan_wholeSends _ _

theorem requestSpiBody_wholeSends (mode : BusMode) (speed : SpiSpeed) : WholeSends (requestSpiBody mode speed) := by
  cases mode with
  | uncommitted => exact .cons (spiSetup_whole _) (.cons trivial (.cons trivial .nil))
  | spi committed => exact .ite (.cons trivial .nil) (.cons trivial .nil)
  | i2c committed => exact .cons trivial .nil

theorem requestI2cBody_wholeSends (mode : BusMode) (speed : I2cSpeed) : WholeSends (requestI2cBody mode speed) := by
  cases mode with
  | uncommitted => exact .cons (i2cSetup_whole _) (.cons trivial (.cons trivial .nil))
  | spi committed => exact .cons trivial .nil
  | i2c committed => exact .ite (.cons trivial .nil) (.cons trivial .nil)

theorem gpioWriteBack_wholeSends (atomic : Bool) (bank : Bank) (bit : Nat) (level : Bool) (v : Byte) :
    WholeSends (gpioWriteBack atomic bank bit level v) :=
  .append (.ite .nil (.cons trivial (.cons trivial .nil))) (.cons (gpioWrite_whole _ _) (.cons trivial .nil))

/-! ### The obligations -/

/-- Settles O54: whatever a step does to the session and the clients, the actions each operation has left stay guarded,
and the lock stays with a client in an operation. -/
theorem stepKeepsTheLockDiscipline : Obligations.StepKeepsTheLockDiscipline := by
  intro s t h hstep
  obtain ⟨o, hm⟩ := step_sessionMoves hstep
  exact hm.lockInv (s := s.withOracle o) h

/-- Settles O55: the event is one that the lock discipline allows. -/
theorem transportEventsNeedTheLock : Obligations.TransportEventsNeedTheLock :=
  fun _ _ _ h hstep => ⟨fun _ _ hsend => step_allows h hstep hsend, fun _ _ hreceive => step_allows h hstep hreceive⟩

/-- Settles O60: each fixed sequence is a list of commands of one of two kinds, silent ones, or ones with a response
and then the flush; and the plans send only such sequences. -/
theorem operationsSendWholeCommands : Obligations.OperationsSendWholeCommands := by
  intro params cl call ph bs mode a c atomic bank bit level v hbs
  change WholeSend bs
  rcases hbs with rfl | rfl | rfl | hplan | hspi | hi2c | hgpio
  · exact openSeq_whole
  · exact loopback_whole level
  · exact i2cStop_whole
  · exact planOf_wholeSends params cl call _ hplan
  · exact requestSpiBody_wholeSends mode a _ hspi
  · exact requestI2cBody_wholeSends mode c _ hi2c
  · exact gpioWriteBack_wholeSends atomic bank bit level v _ hgpio

/-- Settles O21: the fetch finds the decoded command, and a step executes what the fetch finds. -/
theorem stepRunsTheDecodedCommand : Obligations.StepRunsTheDecodedCommand := by
  intro s i rest hdecode
  rw [step, State.fetch_command hdecode]
  rfl

/-- Settles O25: the transport does not fail and the bytes are deliverable, so they are delivered. -/
theorem receiveTakesFromTheFront : Obligations.ReceiveTakesFromTheFront := by
  intro s c n os hgiven hsync hflushed hqueue
  rw [State.receive_given_none c n hgiven]
  exact State.receiveOk_deliverable c hsync hflushed (hflushed.trans hqueue)

end Sys2Proof.Machine
end

section
/-! PROOFS. The family of 30_encoding.md: the decoder and the encoder are inverse to each other (R70 to R73, R80), `cmdLen`
finds a command's length (R77), what is invalid is refused by name (R73, R76), and what the bits of an opcode say (R74). -/

namespace Sys2Proof

/-! ### The opcodes, by format (R71, R75) -/

/-- The opcodes of a format. -/
def Format.opcodes : Format → List Byte
  | .f1 => [0x81, 0x83, 0x84, 0x85, 0x87, 0x8A, 0x8B, 0x8C, 0x8D, 0x96, 0x97]
  | .fb => [0x80, 0x82]
  | .fd => [0x86]
  | .fxo => [0x10, 0x11]
  | .fxi => [0x20, 0x24]
  | .fxio => [Config.opcInoutWfRr, Config.opcInoutWrRf]
  | .fbo => [0x12, 0x13]
  | .fbi => [0x22, 0x26]

theorem Instr.opcode_mem_opcodes (i : Instr) : i.opcode ∈ i.format.opcodes := by
  cases i <;> simp [Instr.opcode, Instr.format, Format.opcodes]

/-- A byte that is an opcode of no format is invalid (R76). -/
theorem decode_unknownOpcode {op : Byte} (h : ∀ f : Format, op ∉ f.opcodes) (tl : List Byte) :
    decode (op :: tl) = .unknownOpcode op := by
  have hf1 := h .f1
  have hfb := h .fb
  have hfd := h .fd
  have hfxo := h .fxo
  have hfxi := h .fxi
  have hfxio := h .fxio
  have hfbo := h .fbo
  have hfbi := h .fbi
  simp only [Format.opcodes, List.mem_cons, List.not_mem_nil, or_false, not_or] at hf1 hfb hfd hfxo hfxi hfxio hfbo hfbi
  simp only [decode, hf1, hfb, hfd, hfxo, hfxi, hfxio, hfbo, hfbi, if_false]

/-! ### The operand decoders read the operand encodings back (R71 to R73) -/

theorem decodePayload_encoded (mk : List Byte → Instr) {p : List Byte} (rest : List Byte)
    (h : byteCountOk p.length = true) :
    decodePayload mk (encodeByteCount p.length ++ p ++ rest) = .command (mk p) rest := by
  simp [-BitVec.toNat_ofNat, encodeByteCount_eq, decodePayload, toNat_lengthField _ h]

theorem decodeCount_encoded (mk : Nat → Instr) {n : Nat} (rest : List Byte) (h : byteCountOk n = true) :
    decodeCount mk (encodeByteCount n ++ rest) = .command (mk n) rest := by
  simp [-BitVec.toNat_ofNat, encodeByteCount_eq, decodeCount, toNat_lengthField _ h]

theorem decodeBitsOut_encoded (mk : Nat → Byte → Instr) {k : Nat} (data : Byte) (rest : List Byte)
    (h : bitCountOk k = true) :
    decodeBitsOut mk (encodeBitCount k :: data :: rest) = .command (mk k data) rest := by
  obtain ⟨hle, hk⟩ := toNat_bitLength k h
  rw [decodeBitsOut, if_pos hle, hk]

theorem decodeBitsIn_encoded (mk : Nat → Instr) {k : Nat} (rest : List Byte) (h : bitCountOk k = true) :
    decodeBitsIn mk (encodeBitCount k :: rest) = .command (mk k) rest := by
  obtain ⟨hle, hk⟩ := toNat_bitLength k h
  rw [decodeBitsIn, if_pos hle, hk]

theorem decodeDivisor_put16 (d : Half) (rest : List Byte) :
    decodeDivisor (put16 d ++ rest) = .command (.setClockDivisor d) rest := by
  simp [put16, decodeDivisor]

/-- The opcode picks the operand decoder of its format, and that one reads the operands back. -/
theorem decode_encode {i : Instr} (rest : List Byte) (h : i.wellFormed = true) :
    decode (encode i ++ rest) = .command i rest := by
  cases i with
  | msbBytesOutRising p => exact decodePayload_encoded .msbBytesOutRising rest h
  | msbBytesOutFalling p => exact decodePayload_encoded .msbBytesOutFalling rest h
  | msbBytesInoutWfRr p => exact decodePayload_encoded .msbBytesInoutWfRr rest h
  | msbBytesInoutWrRf p => exact decodePayload_encoded .msbBytesInoutWrRf rest h
  | msbBytesInRising n => exact decodeCount_encoded .msbBytesInRising rest h
  | msbBytesInFalling n => exact decodeCount_encoded .msbBytesInFalling rest h
  | msbBitsOutRising k data => exact decodeBitsOut_encoded .msbBitsOutRising data rest h
  | msbBitsOutFalling k data => exact decodeBitsOut_encoded .msbBitsOutFalling data rest h
  | msbBitsInRising k => exact decodeBitsIn_encoded .msbBitsInRising rest h
  | msbBitsInFalling k => exact decodeBitsIn_encoded .msbBitsInFalling rest h
  | setClockDivisor d => exact decodeDivisor_put16 d rest
  | _ => rfl

/-! ### What the decoder accepts is an encoding (R70 to R73) -/

/-- `bs` is the encoding of the well-formed command `i`, and then `rest`. -/
def EncodedBy (bs : List Byte) (i : Instr) (rest : List Byte) : Prop :=
  i.wellFormed = true ∧ encode i ++ rest = bs

section
variable {op : Byte} {tl rest : List Byte} {i : Instr}

theorem EncodedBy.of_decodePayload {mk : List Byte → Instr} (hw : ∀ p, (mk p).wellFormed = byteCountOk p.length)
    (he : ∀ p, encode (mk p) = op :: (encodeByteCount p.length ++ p)) (h : decodePayload mk tl = .command i rest) :
    EncodedBy (op :: tl) i rest := by
  obtain ⟨p, rfl, hp, rfl⟩ := decodePayload_command h
  exact ⟨(hw p).trans hp, by rw [he, List.cons_append]⟩

theorem EncodedBy.of_decodeCount {mk : Nat → Instr} (hw : ∀ n, (mk n).wellFormed = byteCountOk n)
    (he : ∀ n, encode (mk n) = op :: encodeByteCount n) (h : decodeCount mk tl = .command i rest) :
    EncodedBy (op :: tl) i rest := by
  obtain ⟨n, rfl, hn, rfl⟩ := decodeCount_command h
  exact ⟨(hw n).trans hn, by rw [he, List.cons_append]⟩

theorem EncodedBy.of_decodeBitsOut {mk : Nat → Byte → Instr} (hw : ∀ k data, (mk k data).wellFormed = bitCountOk k)
    (he : ∀ k data, encode (mk k data) = [op, encodeBitCount k, data]) (h : decodeBitsOut mk tl = .command i rest) :
    EncodedBy (op :: tl) i rest := by
  obtain ⟨k, data, rfl, hk, rfl⟩ := decodeBitsOut_command h
  exact ⟨(hw k data).trans hk, by rw [he]; rfl⟩

theorem EncodedBy.of_decodeBitsIn {mk : Nat → Instr} (hw : ∀ k, (mk k).wellFormed = bitCountOk k)
    (he : ∀ k, encode (mk k) = [op, encodeBitCount k]) (h : decodeBitsIn mk tl = .command i rest) :
    EncodedBy (op :: tl) i rest := by
  obtain ⟨k, rfl, hk, rfl⟩ := decodeBitsIn_command h
  exact ⟨(hw k).trans hk, by rw [he]; rfl⟩

theorem EncodedBy.of_decodeBank {mk : Byte → Byte → Instr} (hw : ∀ value dir, (mk value dir).wellFormed = true)
    (he : ∀ value dir, encode (mk value dir) = [op, value, dir]) (h : decodeBank mk tl = .command i rest) :
    EncodedBy (op :: tl) i rest := by
  obtain ⟨value, dir, rfl, rfl⟩ := decodeBank_command h
  exact ⟨hw value dir, by rw [he]; rfl⟩

/-- A command of the opcode alone. -/
theorem EncodedBy.of_opcodeOnly {j : Instr} (hw : j.wellFormed = true) (he : encode j = [op])
    (h : Decoded.command j tl = .command i rest) : EncodedBy (op :: tl) i rest := by
  cases h
  exact ⟨hw, by rw [he]; rfl⟩

end

/-- The opcode is one of a format, and the operand decoder of that format accepts only operand encodings. -/
theorem encodedBy_of_decode {bs rest : List Byte} {i : Instr} (h : decode bs = .command i rest) :
    EncodedBy bs i rest := by
  cases bs with
  | nil => cases h
  | cons op tl =>
    have hop : ∃ f : Format, op ∈ f.opcodes := by
      by_contra hno
      rw [decode_unknownOpcode (not_exists.1 hno)] at h
      cases h
    obtain ⟨f, hf⟩ := hop
    cases f <;> simp only [Format.opcodes, List.mem_cons, List.not_mem_nil, or_false] at hf
    case f1 =>
      rcases hf with rfl | rfl | rfl | rfl | rfl | rfl | rfl | rfl | rfl | rfl | rfl <;>
        exact .of_opcodeOnly rfl rfl h
    case fb =>
      rcases hf with rfl | rfl
      · exact .of_decodeBank (mk := .setBitsLow) (fun _ _ => rfl) (fun _ _ => rfl) h
      · exact .of_decodeBank (mk := .setBitsHigh) (fun _ _ => rfl) (fun _ _ => rfl) h
    case fd =>
      subst hf
      obtain ⟨d, rfl, rfl⟩ := decodeDivisor_command h
      exact ⟨rfl, rfl⟩
    case fxo =>
      rcases hf with rfl | rfl
      · exact .of_decodePayload (mk := .msbBytesOutRising) (fun _ => rfl) (fun _ => rfl) h
      · exact .of_decodePayload (mk := .msbBytesOutFalling) (fun _ => rfl) (fun _ => rfl) h
    case fxi =>
      rcases hf with rfl | rfl
      · exact .of_decodeCount (mk := .msbBytesInRising) (fun _ => rfl) (fun _ => rfl) h
      · exact .of_decodeCount (mk := .msbBytesInFalling) (fun _ => rfl) (fun _ => rfl) h
    case fxio =>
      rcases hf with rfl | rfl
      · exact .of_decodePayload (mk := .msbBytesInoutWfRr) (fun _ => rfl) (fun _ => rfl) h
      · exact .of_decodePayload (mk := .msbBytesInoutWrRf) (fun _ => rfl) (fun _ => rfl) h
    case fbo =>
      rcases hf with rfl | rfl
      · exact .of_decodeBitsOut (mk := .msbBitsOutRising) (fun _ _ => rfl) (fun _ _ => rfl) h
      · exact .of_decodeBitsOut (mk := .msbBitsOutFalling) (fun _ _ => rfl) (fun _ _ => rfl) h
    case fbi =>
      rcases hf with rfl | rfl
      · exact .of_decodeBitsIn (mk := .msbBitsInRising) (fun _ => rfl) (fun _ => rfl) h
      · exact .of_decodeBitsIn (mk := .msbBitsInFalling) (fun _ => rfl) (fun _ => rfl) h

/-! ### The length of a command (R77) -/

theorem cmdLen_encode {i : Instr} (h : i.wellFormed = true) : cmdLen (encode i) = some (encode i).length := by
  cases i with
  | msbBytesOutRising p => exact Laws.EncodeLength.msbBytesOutRising p h
  | msbBytesOutFalling p => exact Laws.EncodeLength.msbBytesOutFalling p h
  | msbBytesInoutWfRr p => exact Laws.EncodeLength.msbBytesInoutWfRr p h
  | msbBytesInoutWrRf p => exact Laws.EncodeLength.msbBytesInoutWrRf p h
  | _ => rfl

/-- Once `cmdLen` has found a length, more bytes do not change it: it reads no byte after the length field. -/
theorem cmdLen_append {bs : List Byte} {n : Nat} (rest : List Byte) (h : cmdLen bs = some n) :
    cmdLen (bs ++ rest) = some n := by
  match bs with
  | [] => cases h
  | op :: b1 :: b2 :: tl => exact h
  | [op] | [op, b1] =>
    simp only [cmdLen, List.cons_append] at h ⊢
    split_ifs at h ⊢ <;> exact h

/-! ### Reserved bit lengths (R73) -/

theorem decodeBitsOut_reserved (mk : Nat → Byte → Instr) {l : Byte} (data : Byte) (tl : List Byte) (h : 8 ≤ l.toNat) :
    decodeBitsOut mk (l :: data :: tl) = .reservedBitLength l :=
  if_neg (by omega)

theorem decodeBitsIn_reserved (mk : Nat → Instr) {l : Byte} (tl : List Byte) (h : 8 ≤ l.toNat) :
    decodeBitsIn mk (l :: tl) = .reservedBitLength l :=
  if_neg (by omega)

end Sys2Proof

namespace Sys2Proof.Machine

theorem step_unknownOpcode {s : State} {op : Byte} (h : decode s.stream = .unknownOpcode op) :
    step s = .refused (.unknownOpcode op) := by
  simp [step, State.fetch, h]

theorem step_reservedBitLength {s : State} {l : Byte} (h : decode s.stream = .reservedBitLength l) :
    step s = .refused (.reservedBitLength l) := by
  simp [step, State.fetch, h]

/-! ### The bits of an opcode (R74) -/

/-- What the opcode of a clock command says of the command, `e` being what the command does on the data lines. -/
def OpcodeTells (i : Instr) (e : Serial) : Prop :=
  i.opcode.getLsbD 3 = false ∧ i.opcode.getLsbD 6 = false ∧
  i.opcode.getLsbD 1 = decide (i.format = .fbo ∨ i.format = .fbi) ∧
  e.driven.map Prod.fst =
    (if i.opcode.getLsbD 4 then some (if i.opcode.getLsbD 0 then Edge.falling else Edge.rising) else none) ∧
  e.sampled.map Prod.fst =
    (if i.opcode.getLsbD 5 then some (if i.opcode.getLsbD 2 then Edge.falling else Edge.rising) else none)

/-- A full-duplex command drives on its write edge and samples on the other one (R151, R152). -/
theorem State.clockDuplex_serial (s : State) (e : Edge) (p : List Byte) :
    ∃ bs, (s.clockDuplex e p).serial =
      s.serial ++ [{ driven := some (e, payloadBits p), sampled := some (otherEdge e, payloadBits bs) }] := by
  obtain ⟨bs, o, _, h⟩ := s.clockDuplex_cases e p
  exact ⟨bs, congrArg State.serial h⟩

/-- A command with bit 7 of its opcode clear is a clock command: it does one thing on the data lines, as the other bits
say. -/
theorem exec_serial_clock {i : Instr} (s : State) (h : i.opcode.getLsbD 7 = false) :
    ∃ t e, exec i s = .next t ∧ t.serial = s.serial ++ [e] ∧ OpcodeTells i e := by
  cases i with
  | msbBytesOutRising | msbBytesOutFalling | msbBitsOutRising | msbBitsOutFalling =>
    exact ⟨_, _, rfl, rfl, by simp [OpcodeTells, Instr.opcode, Instr.format]⟩
  | msbBytesInRising | msbBytesInFalling | msbBitsInRising | msbBitsInFalling =>
    exact ⟨_, _, rfl, rfl, by simp [OpcodeTells, Instr.opcode, Instr.format]⟩
  | msbBytesInoutWfRr p =>
    obtain ⟨bs, hbs⟩ := s.clockDuplex_serial .falling p
    exact ⟨_, _, rfl, hbs, by simp [OpcodeTells, Instr.opcode, Instr.format, otherEdge, Config.opcInoutWfRr]⟩
  | msbBytesInoutWrRf p =>
    obtain ⟨bs, hbs⟩ := s.clockDuplex_serial .rising p
    exact ⟨_, _, rfl, hbs, by simp [OpcodeTells, Instr.opcode, Instr.format, otherEdge, Config.opcInoutWrRf]⟩
  | _ => simp [Instr.opcode] at h

/-- A command with bit 7 of its opcode set does nothing on the data lines. -/
theorem exec_serial_other {i : Instr} (s : State) (h : i.opcode.getLsbD 7 = true) :
    ∃ t, exec i s = .next t ∧ t.serial = s.serial := by
  cases i with
  | setBitsLow | setBitsHigh | getBitsLow | getBitsHigh | loopbackEnable | loopbackDisable | setClockDivisor
  | sendImmediate | disableDiv5 | enableDiv5 | enable3Phase | disable3Phase | enableAdaptive | disableAdaptive =>
    exact ⟨_, rfl, rfl⟩
  | _ => simp [Instr.opcode, Config.opcInoutWfRr, Config.opcInoutWrRf] at h

/-! ### The obligations -/

/-- Settles O1: each operand decoder reads back what the encoder writes for its format. -/
theorem decodeOfEncodeIsTheCommand : Obligations.DecodeOfEncodeIsTheCommand :=
  fun _ rest h => decode_encode rest h

/-- Settles O2: each operand decoder accepts only what the encoder writes for its format, and `cmdLen` reads the length
off those bytes. -/
theorem encodeOfDecodeIsTheBytes : Obligations.EncodeOfDecodeIsTheBytes := by
  intro bs rest i h
  obtain ⟨hwf, rfl⟩ := encodedBy_of_decode h
  exact ⟨hwf, rfl, cmdLen_append rest (cmdLen_encode hwf)⟩

/-- Settles O3: the decoder names what is invalid, and the step refuses it by that name. -/
theorem invalidBytesAreRefused : Obligations.InvalidBytesAreRefused := by
  refine ⟨fun op tl s hop hs => step_unknownOpcode ?_, fun op l data tl s hl h => step_reservedBitLength ?_⟩
  · have hunlisted : ∀ f : Format, op ∉ f.opcodes := fun f hf => by
      refine hop ((show f.opcodes ⊆ _ from ?_) hf)
      cases f <;> decide
    rw [hs, decode_unknownOpcode hunlisted]
  · rcases h with ⟨rfl | rfl, hs⟩ | ⟨rfl | rfl, hs⟩ <;> rw [hs]
    · exact decodeBitsOut_reserved .msbBitsOutRising data tl hl
    · exact decodeBitsOut_reserved .msbBitsOutFalling data tl hl
    · exact decodeBitsIn_reserved .msbBitsInRising tl hl
    · exact decodeBitsIn_reserved .msbBitsInFalling tl hl

/-- Settles O4: each word is the encoding of its command, the last with one more command behind it. -/
theorem specWordsDecode : Obligations.SpecWordsDecode :=
  ⟨decode_encode (i := .setBitsLow 0x03 0xFB) [] rfl, decode_encode (i := .setClockDivisor 0x001D) [] rfl,
    decode_encode (i := .msbBytesInoutWfRr [0xA5, 0x5A]) [] rfl, decode_encode (i := .msbBitsInRising 1) [] rfl,
    decode_encode (i := .msbBitsOutRising 8 0xC3) [] rfl, decode_encode (i := .msbBytesInFalling 256) [] rfl,
    decode_encode (i := .msbBytesOutRising [0xA5]) [] rfl, decode_encode (i := .getBitsLow) [0x87] rfl⟩

/-- Settles O5: bit 7 tells the clock commands from the others, which leave the data lines alone. -/
theorem opcodeBitsSayWhatTheLinesDo : Obligations.OpcodeBitsSayWhatTheLinesDo := by
  intro i s
  cases hbit : i.opcode.getLsbD 7 with
  | false =>
    obtain ⟨t, e, ht, hserial, htells⟩ := exec_serial_clock s hbit
    exact ⟨t, ht, nofun, fun _ => ⟨e, hserial, htells⟩⟩
  | true =>
    obtain ⟨t, ht, hserial⟩ := exec_serial_other s hbit
    exact ⟨t, ht, fun _ => hserial, nofun⟩

end Sys2Proof.Machine
end

section
/-! PROOFS. The family of 40_session.md: the speeds and divisors (R103 to R107), `open` (R100, R101), `setLoopback`
(R102), the requests of a bus (R108, R109), the pins (R111, R112) and teardown (R113). -/

namespace Sys2Proof

/-! ### Commands that only configure the device (R130 to R138, R140 to R145) -/

/-- The commands that write fields of the device and do nothing else. -/
def Instr.configures : Instr → Bool
  | .setBitsLow _ _ | .setBitsHigh _ _ | .loopbackEnable | .loopbackDisable | .setClockDivisor _ | .disableDiv5
  | .enableDiv5 | .enable3Phase | .disable3Phase | .enableAdaptive | .disableAdaptive => true
  | _ => false

theorem Instr.wellFormed_of_configures {i : Instr} (h : i.configures = true) : i.wellFormed = true := by
  cases i with
  | setBitsLow | setBitsHigh | loopbackEnable | loopbackDisable | setClockDivisor | disableDiv5 | enableDiv5
  | enable3Phase | disable3Phase | enableAdaptive | disableAdaptive => rfl
  | _ => cases h

end Sys2Proof

namespace Sys2Proof.Machine

/-- What such a command makes of the device. -/
def Device.configured (d : Device) : Instr → Device
  | .setBitsLow value dir => d.setBank .low value dir
  | .setBitsHigh value dir => d.setBank .high value dir
  | .loopbackEnable => d.setLoopback true
  | .loopbackDisable => d.setLoopback false
  | .setClockDivisor v => d.setDivisor v
  | .disableDiv5 => d.setDiv5 false
  | .enableDiv5 => d.setDiv5 true
  | .enable3Phase => d.setThreePhase true
  | .disable3Phase => d.setThreePhase false
  | .enableAdaptive => d.setAdaptive true
  | .disableAdaptive => d.setAdaptive false
  | _ => d

theorem exec_of_configures {i : Instr} (s : State) (h : i.configures = true) :
    exec i s = .next (s.withDevice (s.device.configured i)) := by
  cases i with
  | setBitsLow | setBitsHigh | loopbackEnable | loopbackDisable | setClockDivisor | disableDiv5 | enableDiv5
  | enable3Phase | disable3Phase | enableAdaptive | disableAdaptive => rfl
  | _ => cases h

/-- The chip executes a stream of such commands to its end, whatever the clients are at. -/
theorem Reaches.configured {is : List Instr} {s u : State} (hs : s.stream = is.flatMap encode)
    (his : is.all Instr.configures = true)
    (hu : Reaches { s with stream := [], device := is.foldl Device.configured s.device } u) : Reaches s u := by
  induction is generalizing s with
  | nil =>
    have hempty : s.withStream [] = s := congrArg s.withStream hs.symm
    exact hempty ▸ hu
  | cons i is ih =>
    rw [List.all_cons, Bool.and_eq_true] at his
    obtain ⟨hi, his⟩ := his
    refine Reaches.command ?_ (exec_of_configures (s.withStream (is.flatMap encode)) hi) (ih rfl his hu)
    rw [hs, List.flatMap_cons]
    exact decode_encode _ (Instr.wellFormed_of_configures hi)

/-! ### Divisors and bus clocks (R103, R104) -/

/-- Up to `F0` the quotient of R103 is at least 1, so nothing is cut off below 0. -/
theorem divisorOf_succ {f : Nat} (hpos : 0 < f) (hle : f ≤ Config.f0) :
    divisorOf f + 1 = (Config.f0 + f) / (2 * f) :=
  Nat.sub_add_cancel ((Nat.one_le_div_iff (by omega)).2 (by omega))

/-- With the three clock modes off, a divisor that divides `F0` into `f` makes the clock `f`. -/
theorem Device.busClock_setDivisor {d : Device} {v : Half} {f : Nat} (hdiv5 : d.div5 = false)
    (hthree : d.threePhase = false) (hadaptive : d.adaptive = false) (h : Config.f0 = f * (2 * (v.toNat + 1))) :
    (d.setDivisor v).busClock = some (f : Rat) := by
  have hne : (2 * ((v.toNat : Rat) + 1)) ≠ 0 := by positivity
  have hclock : (Config.f0 : Rat) / (2 * ((v.toNat : Rat) + 1)) = f := by
    rw [div_eq_iff hne, h]
    push_cast
    rfl
  simp [Device.busClock, hdiv5, hthree, hadaptive, hclock]

/-- The frequency that an SPI speed class makes: its own, but for `M20` (R104). -/
def SpiSpeed.madeHz (v : SpiSpeed) : Nat := if v = .m20 then 15000000 else v.hz

theorem SpiSpeed.f0_eq (v : SpiSpeed) : Config.f0 = v.madeHz * (2 * (v.divisor.toNat + 1)) := by cases v <;> rfl

theorem I2cSpeed.f0_eq (v : I2cSpeed) : Config.f0 = v.hz * (2 * (v.divisor.toNat + 1)) := by cases v <;> rfl

theorem SpiSpeed.cast_madeHz (v : SpiSpeed) : (v.madeHz : Rat) = if v = .m20 then 15000000 else (v.hz : Rat) := by
  rw [SpiSpeed.madeHz]
  split <;> simp

theorem SpiSpeed.compatible_iff (committed requested : SpiSpeed) :
    committed.compatible requested = true ↔ requested = .auto ∨ requested.resolve = committed := by
  simp [SpiSpeed.compatible]

theorem I2cSpeed.compatible_iff (committed requested : I2cSpeed) :
    committed.compatible requested = true ↔ requested = .auto ∨ requested.resolve = committed := by
  simp [I2cSpeed.compatible]

/-! ### An operation that holds the lock (R55) -/

/-- The state with the session `T`. -/
def State.withSession (s : State) (T : Session) : State := { s with session := some T }

/-- The state `s` with client `c`, otherwise as `y`, in the operation `call`, before `calls`; it holds the lock of the
session `T` and has the actions `todo` left. -/
def State.locked (s : State) (T : Session) (c : Nat) (y : Client) (calls : List Call) (call : Call) (todo : List Act) :
    State :=
  (s.withSession (T.setLock (.held c))).during c { y with calls := calls } ⟨call, .idle, todo, [], false⟩

/-- The state `s` with the session `T`, and client `c`, otherwise as `y`, after its call has returned `res`. -/
def State.answered (s : State) (T : Session) (c : Nat) (y : Client) (calls : List Call) (res : Result) : State :=
  (s.withSession T).setClient c (y.after calls res)

theorem Session.setLock_free {T : Session} {l : Lock} (h : T.lock = .free) : (T.setLock l).setLock .free = T := by
  rw [← h]
  rfl

section
variable {s : State} {T : Session} {c : Nat} {y : Client} {calls : List Call} {call : Call} {todo : List Act}

theorem State.locked_goOn (hc : c < s.clients.length) (todo' : List Act) :
    (s.locked T c y calls call todo).goOn c todo' = s.locked T c y calls call todo' :=
  State.during_goOn (s := s.withSession _) hc todo'

/-- The return of the operation frees the lock. -/
theorem State.returned_answered (hT : T.lock = .free) (hy : y.running = none) (res : Result) :
    (s.withSession (T.setLock (.held c))).returned c { y with calls := calls } res = s.answered T c y calls res := by
  rw [State.returned_locked rfl rfl, Session.setLock_free hT, State.answered, Client.after, hy]
  rfl

theorem State.locked_finish (hc : c < s.clients.length) (hT : T.lock = .free) (hy : y.running = none) (res : Result) :
    (s.locked T c y calls call todo).finish c res = s.answered T c y calls res := by
  rw [State.locked, State.during_finish (s := s.withSession _) hc, State.returned_answered hT hy]

theorem State.locked_client (hc : c < s.clients.length) : (s.locked T c y calls call todo).clients[c]? =
    some { y with calls := calls, running := some ⟨call, .idle, todo, [], false⟩ } :=
  State.during_getElem? (s := s.withSession _) hc

/-- A client that becomes `y'`, with a new handle, and ends its operation. -/
theorem State.locked_setClient_finish (hc : c < s.clients.length) (hT : T.lock = .free) {y' : Client}
    (hy : y'.running = none) (res : Result) :
    ((s.locked T c y calls call todo).setClient c
      { y' with calls := calls, running := some ⟨call, .idle, todo, [], false⟩ }).finish c res =
      s.answered T c y' calls res := by
  have hset : (s.locked T c y calls call todo).setClient c
      { y' with calls := calls, running := some ⟨call, .idle, todo, [], false⟩ } =
      s.locked T c y' calls call todo := by
    simp [State.locked, State.during, State.setClient]
  rw [hset, State.locked_finish hc hT hy]

theorem State.locked_giveSpi (hc : c < s.clients.length) (hT : T.lock = .free) (hy : y.running = none)
    (speed : SpiSpeed) :
    (s.locked T c y calls call todo).giveSpi c speed =
      s.answered T c { y with spi := y.spi ++ [⟨speed, .mode0⟩] } calls (.ok (.spiHandle y.spi.length)) := by
  rw [State.giveSpi, State.locked_client hc]
  exact State.locked_setClient_finish hc hT (y' := { y with spi := y.spi ++ [⟨speed, .mode0⟩] }) hy _

theorem State.locked_giveI2c (hc : c < s.clients.length) (hT : T.lock = .free) (hy : y.running = none)
    (speed : I2cSpeed) :
    (s.locked T c y calls call todo).giveI2c c speed =
      s.answered T c { y with i2c := y.i2c ++ [⟨speed⟩] } calls (.ok (.i2cHandle y.i2c.length)) := by
  rw [State.giveI2c, State.locked_client hc]
  exact State.locked_setClient_finish hc hT (y' := { y with i2c := y.i2c ++ [⟨speed⟩] }) hy _

theorem State.locked_givePin (hc : c < s.clients.length) (hT : T.lock = .free) (hy : y.running = none)
    (pin : PinHandle) :
    (s.locked T c y calls call todo).givePin c pin =
      s.answered T c { y with pins := y.pins ++ [some pin] } calls (.ok (.pinHandle y.pins.length)) := by
  rw [State.givePin, State.locked_client hc]
  exact State.locked_setClient_finish hc hT (y' := { y with pins := y.pins ++ [some pin] }) hy _

/-- The body of `acquirePin` refuses an invalid descriptor. -/
theorem State.locked_claimPin_invalid (hc : c < s.clients.length) (hT : T.lock = .free) (hy : y.running = none)
    {bit : Nat} {bank : Bank} (hv : pinValid bit bank = false) :
    (s.locked T c y calls call todo).claimPin c (T.setLock (.held c)) bit bank =
      s.answered T c y calls (.err .gpioInvalidPin) := by
  rw [State.claimPin, hv]
  exact State.locked_finish hc hT hy _

/-- It refuses a pin whose flag is false. -/
theorem State.locked_claimPin_busy (hc : c < s.clients.length) (hT : T.lock = .free) (hy : y.running = none)
    {bit : Nat} {bank : Bank} (hv : pinValid bit bank = true) (hav : T.available (pinIndex bit bank) = false) :
    (s.locked T c y calls call todo).claimPin c (T.setLock (.held c)) bit bank =
      s.answered T c y calls (.err .gpioPinBusy) := by
  rw [State.claimPin, hv, show (T.setLock (.held c)).available (pinIndex bit bank) = false from hav]
  exact State.locked_finish hc hT hy _

/-- It hands out a pin whose flag is true, and clears the flag. -/
theorem State.locked_claimPin (hc : c < s.clients.length) (hT : T.lock = .free) (hy : y.running = none)
    {bit : Nat} {bank : Bank} (hv : pinValid bit bank = true) (hav : T.available (pinIndex bit bank) = true) :
    (s.locked T c y calls call todo).claimPin c (T.setLock (.held c)) bit bank =
      s.answered (T.setAvailable (pinIndex bit bank) false) c { y with pins := y.pins ++ [some ⟨bank, bit⟩] } calls
        (.ok (.pinHandle y.pins.length)) := by
  rw [State.claimPin, hv, show (T.setLock (.held c)).available (pinIndex bit bank) = true from hav]
  exact State.locked_givePin (T := T.setAvailable (pinIndex bit bank) false) hc hT hy ⟨bank, bit⟩

end

/-! ### Transport calls with a given outcome (R4) -/

/-- The state after client `c` has sent `bs`, which join the command stream; `os` are the outcomes still given. -/
def State.sent (s : State) (c : Nat) (bs : List Byte) (os : List (Option TransportError)) : State :=
  { s with
    stream := s.stream ++ bs
    history := s.history ++ [.send c bs none]
    oracle := { s.oracle with outcome := ⟨os, s.oracle.outcome.used⟩ } }

/-- The state after a `Send` of `bs` by client `c` that failed with `e`: the device is the unspecified one of number
`k`. -/
def State.sendFailed (s : State) (c : Nat) (bs : List Byte) (e : TransportError) (k : Nat) (o : Oracle) : State :=
  { s with device := Device.unspecified k, history := s.history ++ [.send c bs (some e)], oracle := o }

/-- The state after client `c` has sent the commands `is` and the chip has executed them, which only configure it. -/
def State.configured (s : State) (c : Nat) (is : List Instr) (os : List (Option TransportError)) : State :=
  { s with
    device := is.foldl Device.configured s.device
    history := s.history ++ [.send c (is.flatMap encode) none]
    oracle := { s.oracle with outcome := ⟨os, s.oracle.outcome.used⟩ } }

section
variable {s u : State} {os : List (Option TransportError)} {e : TransportError}

theorem State.send_given_none (c : Nat) (bs : List Byte) (h : s.oracle.outcome.given = none :: os) :
    s.send c bs = (none, s.sent c bs os) :=
  (sendAppendsToStreamOrHavocksDevice s c bs os).1 h

theorem State.send_given_some (c : Nat) (bs : List Byte) (h : s.oracle.outcome.given = some e :: os) :
    ∃ k o, s.send c bs = (some e, s.sendFailed c bs e k o) := by
  obtain ⟨k, o, hsend, _⟩ := (sendAppendsToStreamOrHavocksDevice s c bs os).2 e h
  exact ⟨k, o, hsend⟩

/-- After the `Send` the chip executes the commands before any client moves. -/
theorem Reaches.sent {c : Nat} {is : List Instr} (hs : s.stream = []) (his : is.all Instr.configures = true)
    (hu : Reaches (s.configured c is os) u) : Reaches (s.sent c (is.flatMap encode) os) u := by
  refine Reaches.configured (is := is) (by rw [State.sent, hs, List.nil_append]) his ?_
  rw [← hs]
  exact hu

end

/-! ### From a call to its answer -/

/-- A state reaches itself, however it is written. -/
theorem Reaches.of_eq {s t : State} (h : s = t) : Reaches s t := h ▸ .refl s

/-- The actions that have a step in every session: all but the taking of the lock and the actions of `open`. -/
def Act.runsInSession : Act → Bool
  | .takeLock | .openDevice | .sendOpen | .makeSession => false
  | _ => true

theorem State.actPossible_of_session {s : State} {r : Running} {a : Act} {rest : List Act} (ht : r.todo = a :: rest)
    (ha : a.runsInSession = true) (hr : r.hung = false) (hS : s.session.isSome = true) : s.actPossible r = true := by
  rw [State.actPossible, ht, hr]
  cases a with
  | takeLock | openDevice | sendOpen | makeSession => cases ha
  | _ => exact hS

section
variable {s s' u : State} {S T : Session} {c : Nat} {cl y : Client} {calls : List Call} {call : Call} {a : Act}
  {rest : List Act} {os : List (Option TransportError)}

/-- The answer on the session as it was. -/
theorem Calling.answered_eq (h : Calling s S c cl call calls) (res : Result) :
    s.answered S c y calls res = { s with clients := s.clients.set c (y.after calls res) } := by
  rw [State.answered, State.withSession, ← h.session]
  rfl

/-- The end of an operation that has not taken the lock. -/
theorem Calling.unlocked_finish (h : Calling s S c cl call calls) (hy : y.running = none) (r : Running) (res : Result) :
    (s.during c { y with calls := calls } r).finish c res = { s with clients := s.clients.set c (y.after calls res) } := by
  have hfree : S.release c = S := by simp [Session.release, h.lock]
  have hrelease : s.onSession (Session.release c) = s := by
    rw [State.onSession, h.session, Option.map_some, hfree, ← h.session]
  rw [State.during_finish h.lt, State.returned, hrelease, Client.after, hy]
  rfl

/-- A call whose plan takes the lock first. -/
theorem Calling.toLocked (h : Calling s S c cl call calls) (hne : call ≠ .teardown)
    (hplan : planOf s.params cl call = .takeLock :: rest)
    (hu : Reaches (s.locked S c (cl.dropped call) calls call rest) u) : Reaches s u :=
  h.locked hne hplan hu

/-- The next action of the operation that holds the lock. -/
theorem Calling.actLocked (h : Calling s S c cl call calls) (hcs : s'.clients = s.clients) (hs : s'.stream = [])
    (hh : s'.halted = false) (ha : a.runsInSession = true)
    (hu : Reaches ((s'.locked T c y calls call (a :: rest)).runAct c a rest) u) :
    Reaches (s'.locked T c y calls call (a :: rest)) u :=
  h.act (s' := s'.withSession (T.setLock (.held c))) rfl hcs hs hh rfl (State.actPossible_of_session rfl ha rfl rfl) hu

/-- A call whose plan is one action under the lock, which decides what comes then. -/
theorem Calling.runsBody (h : Calling s S c cl call calls) (hne : call ≠ .teardown)
    (hplan : planOf s.params cl call = [.takeLock, a]) (ha : a.runsInSession = true)
    (hu : Reaches ((s.locked S c (cl.dropped call) calls call [a]).runAct c a []) u) : Reaches s u :=
  h.toLocked hne hplan (h.actLocked rfl h.stream h.halted ha hu)

/-- A `Send` of configuring commands that succeeds, and its execution. -/
theorem Calling.sends {is : List Instr} (h : Calling s S c cl call calls) (his : is.all Instr.configures = true)
    (hgiven : s.oracle.outcome.given = none :: os)
    (hu : Reaches ((s.configured c is os).locked T c y calls call rest) u) :
    Reaches (s.locked T c y calls call (.send .idle (is.flatMap encode) :: rest)) u := by
  refine h.actLocked rfl h.stream h.halted rfl ?_
  have hsend := (s.withSession (T.setLock (.held c))).send_given_none c (is.flatMap encode) hgiven
  rw [State.runAct, State.locked, State.during_sendThen (s := s.withSession _) h.lt hsend]
  exact Reaches.sent (s := s.locked T c y calls call rest) h.stream his hu

/-- A `Send` that fails ends the operation, with the session as it is. -/
theorem Calling.send_fails {bs : List Byte} {e : TransportError} (h : Calling s S c cl call calls) (hT : T.lock = .free)
    (hy : y.running = none) (hgiven : s.oracle.outcome.given = some e :: os) :
    ∃ k o, Reaches (s.locked T c y calls call (.send .idle bs :: rest))
      ((s.sendFailed c bs e k o).answered T c y calls (.err (.transport e))) := by
  obtain ⟨k, o, hsend⟩ := (s.withSession (T.setLock (.held c))).send_given_some c bs hgiven
  refine ⟨k, o, h.actLocked rfl h.stream h.halted rfl ?_⟩
  rw [State.runAct, State.locked, State.during_sendThen_error (s := s.withSession _) h.lt hsend]
  exact .of_eq (State.returned_answered (s := s.sendFailed c bs e k o) hT hy _)

/-- An error raised under the lock leaves everything else as it was before the call. -/
theorem Calling.raises (h : Calling s S c cl call calls) (e : Error) :
    Reaches (s.locked S c cl calls call [.raise e]) { s with clients := s.clients.set c (cl.after calls (.err e)) } := by
  refine h.actLocked rfl h.stream h.halted rfl ?_
  exact .of_eq ((State.locked_finish h.lt h.lock h.running _).trans (h.answered_eq _))

/-- The commit of a bus. -/
theorem Calling.commits {b : BusMode} (h : Calling s S c cl call calls) (hcs : s'.clients = s.clients)
    (hs : s'.stream = []) (hh : s'.halted = false) (hu : Reaches (s'.locked (T.setBusMode b) c y calls call rest) u) :
    Reaches (s'.locked T c y calls call (.commit b :: rest)) u := by
  refine h.actLocked hcs hs hh rfl ?_
  exact .trans (.of_eq (State.locked_goOn (s := s') (T := T.setBusMode b) (hcs ▸ h.lt) rest)) hu

/-- The first commit of a bus: its setup is sent and executed, the bus is committed, and what comes then comes with the
bus committed. -/
theorem Calling.setsUp {is : List Instr} {b : BusMode} (h : Calling s S c cl call calls)
    (his : is.all Instr.configures = true) (hgiven : s.oracle.outcome.given = none :: os)
    (ha : a.runsInSession = true)
    (hu : Reaches (((s.configured c is os).locked (S.setBusMode b) c cl calls call [a]).runAct c a []) u) :
    Reaches (s.locked S c cl calls call [.send .idle (is.flatMap encode), .commit b, a]) u :=
  h.sends his hgiven <| h.commits rfl h.stream h.halted <| h.actLocked rfl h.stream h.halted ha hu

end

/-! ### The bus requests (R108, R109) -/

/-- The commands of `SPI_SETUP` and `I2C_SETUP`: the low bank and the divisor. -/
def setupCommands (value : Byte) (divisor : Half) : List Instr :=
  [.setBitsLow value Config.lowDir, .setClockDivisor divisor]

section
variable {s u : State} {S : Session} {c : Nat} {cl : Client} {calls : List Call}

/-- `requestSpi` comes to the case of its match that the bus mode picks. -/
theorem Calling.matchesSpi {speed : SpiSpeed} {mode : BusMode} (h : Calling s S c cl (.requestSpi speed) calls)
    (hmode : S.busMode = mode)
    (hu : Reaches (s.locked S c cl calls (.requestSpi speed) (requestSpiBody mode speed)) u) : Reaches s u := by
  subst hmode
  exact h.runsBody (by simp) rfl rfl (.trans (.of_eq (State.locked_goOn (T := S) h.lt _)) hu)

/-- `requestI2c` comes to the case of its match that the bus mode picks. -/
theorem Calling.matchesI2c {speed : I2cSpeed} {mode : BusMode} (h : Calling s S c cl (.requestI2c speed) calls)
    (hmode : S.busMode = mode)
    (hu : Reaches (s.locked S c cl calls (.requestI2c speed) (requestI2cBody mode speed)) u) : Reaches s u := by
  subst hmode
  exact h.runsBody (by simp) rfl rfl (.trans (.of_eq (State.locked_goOn (T := S) h.lt _)) hu)

end

/-! ### `open` (R100, R101) -/

/-- Client `c`, in no operation, is about to open a session, and there is none; no other client has a step, and the chip
has nothing left to execute. -/
structure Opening (s : State) (c : Nat) (cl : Client) (calls : List Call) : Prop where
  session : s.session = none
  client : s.clients[c]? = some cl
  calls : cl.calls = .openSession :: calls
  running : cl.running = none
  alone : s.ready = [c]
  stream : s.stream = []
  halted : s.halted = false

/-- The state `s` with client `c` in `open`, with the actions `todo` left. -/
def State.opening (s : State) (c : Nat) (cl : Client) (calls : List Call) (todo : List Act) : State :=
  s.during c { cl with calls := calls } ⟨.openSession, .idle, todo, [], false⟩

/-- The state once the device has been opened (R291): a fresh device at launch, with nothing to execute. `ds` are the
answers still given. -/
def State.launched (s : State) (ds : List Bool) : State :=
  { s with
    stream := []
    device := (Device.unspecified s.oracle.unspecified).atLaunch s.params.openClean
    oracle := { s.oracle with
      opens := ⟨ds, s.oracle.opens.used⟩
      unspecified := s.oracle.unspecified + 1 } }

/-- The state once the run has halted (R271). -/
def State.afterHalt (s : State) (ds : List Bool) : State :=
  { s with
    halted := true
    history := s.history ++ [.halt]
    oracle := { s.oracle with opens := ⟨ds, s.oracle.opens.used⟩ } }

/-- The commands of `OPEN_SEQ` (R100). -/
def openCommands : List Instr :=
  [.disableDiv5, .disableAdaptive, .disable3Phase, .loopbackDisable, .setBitsLow 0x00 Config.openDir,
    .setBitsHigh 0x00 Config.openDir]

/-- They write every field of the device at launch but the divisor and the queue (R37, R291). -/
theorem Device.configured_openCommands (d : Device) (clean : Bool) :
    openCommands.foldl Device.configured (d.atLaunch clean) =
      { Device.afterOpen with rx := (d.atLaunch clean).rx, flushed := (d.atLaunch clean).flushed, sync := clean } := by
  cases clean <;> rfl

theorem State.drawOpens_given {s : State} {b : Bool} {ds : List Bool} (h : s.oracle.opens.given = b :: ds) :
    s.drawOpens = (b, s.withOracle { s.oracle with opens := ⟨ds, s.oracle.opens.used⟩ }) := by
  rw [State.drawOpens, Feed.next_given h]

section
variable {s u : State} {c : Nat} {cl : Client} {calls : List Call} {ds : List Bool} {rest todo : List Act}
  {os : List (Option TransportError)}

theorem State.opening_goOn (hc : c < s.clients.length) (todo' : List Act) :
    (s.opening c cl calls todo).goOn c todo' = s.opening c cl calls todo' :=
  State.during_goOn hc todo'

/-- The end of an `open`: without a session, or with a new one, there is no lock to release. -/
theorem State.opening_finish (hc : c < s.clients.length) (hr : cl.running = none)
    (hS : s.session = none ∨ s.session = some Session.fresh) (res : Result) :
    (s.opening c cl calls todo).finish c res = s.setClient c (cl.after calls res) := by
  have hsession : s.session.map (Session.release c) = s.session := by
    rcases hS with hS | hS <;> rw [hS] <;> rfl
  have hrelease : s.onSession (Session.release c) = s := by rw [State.onSession, hsession]
  rw [State.opening, State.during_finish hc, State.returned, hrelease, Client.after, hr]

theorem State.opening_openDevice (hc : c < s.clients.length) (h : s.oracle.opens.given = true :: ds) :
    (s.opening c cl calls todo).openDevice c rest = (s.launched ds).opening c cl calls rest := by
  rw [State.openDevice, State.drawOpens_given (s := s.opening c cl calls todo) h]
  exact State.opening_goOn (s := s.launched ds) hc rest

theorem State.opening_openDevice_fails (h : s.oracle.opens.given = false :: ds) :
    (s.opening c cl calls todo).openDevice c rest = (s.opening c cl calls todo).afterHalt ds := by
  rw [State.openDevice, State.drawOpens_given (s := s.opening c cl calls todo) h]
  rfl

theorem State.opening_sendOpen (hc : c < s.clients.length) (h : s.oracle.outcome.given = none :: os) :
    (s.opening c cl calls todo).sendOpen c rest = (s.sent c openSeq os).opening c cl calls rest := by
  rw [State.sendOpen, State.send_given_none (s := s.opening c cl calls todo) c openSeq h]
  exact State.opening_goOn (s := s.sent c openSeq os) hc rest

theorem State.opening_sendOpen_fails {e : TransportError} (hc : c < s.clients.length) (hr : cl.running = none)
    (hS : s.session = none) (h : s.oracle.outcome.given = some e :: os) :
    ∃ k o, (s.opening c cl calls todo).sendOpen c rest =
      (s.sendFailed c openSeq e k o).setClient c (cl.after calls (.err (.init e))) := by
  obtain ⟨k, o, hsend⟩ := State.send_given_some (s := s.opening c cl calls todo) c openSeq h
  refine ⟨k, o, ?_⟩
  rw [State.sendOpen, hsend]
  exact State.opening_finish (s := s.sendFailed c openSeq e k o) hc hr (.inl hS) _

theorem State.opening_makeSession (hc : c < s.clients.length) (hr : cl.running = none) :
    (s.opening c cl calls todo).makeSession c =
      (s.withSession Session.fresh).setClient c (cl.after calls (.ok .session)) :=
  State.opening_finish (s := s.withSession Session.fresh) hc hr (.inr rfl) _

theorem Opening.lt (h : Opening s c cl calls) : c < s.clients.length := (List.getElem?_eq_some_iff.1 h.client).1

/-- The next action of `open`, in a state `s'` that it has led to. -/
theorem Opening.act {s' : State} {a : Act} (h : Opening s c cl calls) (hS : s'.session = none)
    (hcs : s'.clients = s.clients) (hs : s'.stream = []) (hh : s'.halted = false)
    (ha : a = .openDevice ∨ a = .sendOpen ∨ a = .makeSession)
    (hu : Reaches ((s'.opening c cl calls (a :: rest)).runAct c a rest) u) :
    Reaches (s'.opening c cl calls (a :: rest)) u := by
  refine Reaches.during h.alone (.inr h.session) (by rw [hS, h.session]) hcs hs hh rfl ?_ hu
  rcases ha with rfl | rfl | rfl <;> simp [State.actPossible, hS]

/-- `open` comes to ask for the device. -/
theorem Opening.start (h : Opening s c cl calls)
    (hu : Reaches ((s.opening c cl calls openPlan).openDevice c [.sendOpen, .makeSession]) u) : Reaches s u :=
  Reaches.start h.alone h.stream h.halted h.client h.running h.calls (by simp)
    (h.act h.session rfl h.stream h.halted (.inl rfl) hu)

/-- A device that opens: `open` comes to its `Send`. -/
theorem Opening.launches (h : Opening s c cl calls) (hgiven : s.oracle.opens.given = true :: ds)
    (hu : Reaches (((s.launched ds).opening c cl calls [.sendOpen, .makeSession]).sendOpen c [.makeSession]) u) :
    Reaches s u := by
  refine h.start ?_
  rw [State.opening_openDevice h.lt hgiven]
  exact h.act h.session rfl rfl h.halted (.inr (.inl rfl)) hu

/-- A `Send` that succeeds: the chip executes `OPEN_SEQ`, and then the session is made. -/
theorem Opening.opens (h : Opening s c cl calls) (hgiven : s.oracle.opens.given = true :: ds)
    (hok : s.oracle.outcome.given = none :: os) :
    Reaches s ((((s.launched ds).configured c openCommands os).withSession Session.fresh).setClient c
      (cl.after calls (.ok .session))) := by
  refine h.launches hgiven ?_
  rw [State.opening_sendOpen (s := s.launched ds) h.lt hok]
  refine Reaches.sent (s := (s.launched ds).opening c cl calls [.makeSession]) (is := openCommands) rfl rfl ?_
  refine h.act (s' := (s.launched ds).configured c openCommands os) h.session rfl rfl h.halted (.inr (.inr rfl)) ?_
  exact .of_eq (State.opening_makeSession (s := (s.launched ds).configured c openCommands os) h.lt h.running)

end

/-! ### The loopback flag (R102) -/

section
variable {s u : State} {S T : Session} {c : Nat} {cl y : Client} {calls : List Call} {call : Call} {todo : List Act}
  {os : List (Option TransportError)} {enabled old : Bool}

/-- The command that `loopback(e)` sends. -/
def loopbackCommand (enabled : Bool) : Instr := if enabled then .loopbackEnable else .loopbackDisable

theorem loopback_eq (enabled : Bool) : loopback enabled = [loopbackCommand enabled].flatMap encode := by
  cases enabled <;> rfl

theorem loopbackCommand_configures (enabled : Bool) : [loopbackCommand enabled].all Instr.configures = true := by
  cases enabled <;> rfl

theorem State.locked_sendLoopback (hc : c < s.clients.length) (hT : T.lock = .free) (hy : y.running = none)
    (h : s.oracle.outcome.given = none :: os) :
    (s.locked T c y calls call todo).sendLoopback c enabled old =
      (s.sent c (loopback enabled) os).answered T c y calls (.ok .unit) := by
  rw [State.sendLoopback, State.send_given_none (s := s.locked T c y calls call todo) c _ h]
  exact State.locked_finish (s := s.sent c (loopback enabled) os) hc hT hy _

theorem State.locked_sendLoopback_fails {e : TransportError} (hc : c < s.clients.length) (hT : T.lock = .free)
    (hy : y.running = none) (h : s.oracle.outcome.given = some e :: os) :
    ∃ k o, (s.locked T c y calls call todo).sendLoopback c enabled old =
      (s.sendFailed c (loopback enabled) e k o).answered
        (if s.params.loopbackRollback then T.setLoopback old else T) c y calls (.err (.transport e)) := by
  obtain ⟨k, o, hsend⟩ := State.send_given_some (s := s.locked T c y calls call todo) c (loopback enabled) h
  refine ⟨k, o, ?_⟩
  rw [State.sendLoopback, hsend]
  by_cases hroll : s.params.loopbackRollback = true
  · rw [if_pos hroll]
    exact (congrArg (State.raise · c _) (if_pos hroll)).trans
      (State.locked_finish (s := s.sendFailed c (loopback enabled) e k o) (T := T.setLoopback old) hc hT hy _)
  · rw [if_neg hroll]
    exact (congrArg (State.raise · c _) (if_neg hroll)).trans
      (State.locked_finish (s := s.sendFailed c (loopback enabled) e k o) hc hT hy _)

/-- `setLoopback` writes the flag and comes to its `Send`. -/
theorem Calling.writesLoopback (h : Calling s S c cl (.setLoopback enabled) calls)
    (hu : Reaches ((s.locked (S.setLoopback enabled) c cl calls (.setLoopback enabled)
      [.sendLoopback enabled S.loopback]).sendLoopback c enabled S.loopback) u) : Reaches s u := by
  refine h.runsBody (by simp) rfl rfl ?_
  exact .trans (.of_eq (State.locked_goOn (T := S.setLoopback enabled) h.lt _)) (h.actLocked rfl h.stream h.halted rfl hu)

end

/-! ### The end of a pin handle's lifetime (R112) -/

section
variable {s : State} {S : Session} {c : Nat} {cl : Client} {calls : List Call} {k : Nat} {pin : PinHandle}

theorem planOf_dropPin (params : Params) (hpin : cl.pin k = some pin) :
    planOf params cl (.dropPin k) = dropPinPlan params.pinRelease pin := by
  rw [planOf, onPin, hpin]
  rfl

/-- With `PIN_RELEASE` the flag is set again under the lock. -/
theorem Calling.dropsPin_releasing (h : Calling s S c cl (.dropPin k) calls) (hpin : cl.pin k = some pin)
    (hrelease : s.params.pinRelease = true) :
    Reaches s (s.answered (S.setAvailable (pinIndex pin.bit pin.bank) true) c (cl.dropped (.dropPin k)) calls
      (.ok .unit)) := by
  refine h.toLocked (by simp) (by rw [planOf_dropPin _ hpin, hrelease]; rfl) ?_
  refine h.actLocked rfl h.stream h.halted rfl ?_
  refine .trans (.of_eq (State.locked_goOn (T := S.setAvailable (pinIndex pin.bit pin.bank) true) h.lt _)) ?_
  refine h.actLocked rfl h.stream h.halted rfl (.of_eq ?_)
  have hdropped : (cl.dropped (.dropPin k)).running = none := h.running
  exact State.locked_finish (T := S.setAvailable _ true) h.lt h.lock hdropped _

/-- Without it only the handle goes. -/
theorem Calling.dropsPin_keeping (h : Calling s S c cl (.dropPin k) calls) (hpin : cl.pin k = some pin)
    (hrelease : s.params.pinRelease = false) :
    Reaches s { s with clients := s.clients.set c ((cl.dropped (.dropPin k)).after calls (.ok .unit)) } := by
  refine h.start (by simp) ?_
  rw [planOf_dropPin _ hpin, hrelease]
  have hS : s.session.isSome = true := by rw [h.session]; rfl
  have hdropped : (cl.dropped (.dropPin k)).running = none := h.running
  exact h.act hS rfl h.stream h.halted rfl (State.actPossible_of_session rfl rfl rfl hS)
    (.of_eq (h.unlocked_finish hdropped _ _))

end

/-! ### Teardown (R113) -/

section
variable {s : State} {S : Session} {c : Nat} {cl : Client} {calls : List Call}

/-- The clients after a teardown: none has a handle, and its caller has the result. -/
theorem State.teardown_clients (hcl : s.clients[c]? = some cl) (hr : cl.running = none) :
    ((s.setClient c { cl with calls := calls }).teardown c).clients =
      (s.clients.map Client.withoutHandles).set c (cl.after calls (.ok .unit)).withoutHandles := by
  obtain ⟨hlt, _⟩ := List.getElem?_eq_some_iff.1 hcl
  have hcaller : ((s.clients.map Client.withoutHandles).set c { cl with calls := calls }.withoutHandles)[c]? =
      some { cl with calls := calls }.withoutHandles := by simp [hlt]
  rw [State.teardown, State.setClient_clients, List.map_set, modify_eq_set hcaller, List.set_set, Client.after, hr]
  rfl

theorem Calling.tearsDown (h : Calling s S c cl .teardown calls) :
    Reaches s { s with
      session := none
      device := { s.device with rx := [], flushed := 0 }
      clients := (s.clients.map Client.withoutHandles).set c (cl.after calls (.ok .unit)).withoutHandles } := by
  refine Reaches.call h.alone h.stream h.halted h.client h.running h.calls (.of_eq ?_)
  rw [← State.teardown_clients h.client h.running]
  exact congrArg ((s.setClient c { cl with calls := calls }).teardown c).withStream h.stream.symm

end

/-- An operation in progress holds up every teardown. -/
theorem State.noOperation_eq_false {s : State} {x : Client} {r : Running} (hx : x ∈ s.clients)
    (hr : x.running = some r) : s.noOperation = false :=
  List.all_eq_false.2 ⟨x, hx, by simp [hr]⟩

/-- Without a session only `open` can be called (R113, R277). -/
theorem State.callPossible_eq_false {s : State} {cl : Client} {call : Call} (hS : s.session = none)
    (hne : call ≠ .openSession) : s.callPossible cl call = false := by
  cases call with
  | openSession => exact absurd rfl hne
  | _ => simp [State.callPossible, hS]

/-! ### The flags without `PIN_RELEASE` (R112) -/

section
variable {s t : State} {c : Nat} {cl cl' : Client} {r : Running} {a : Act} {rest : List Act}

/-- An action leaves its client with no flag to set again, if it had none. -/
theorem ActMoves.pinsReturning_eq_nil (hm : ActMoves s c cl r a rest t.session cl') (hr : cl.running = some r)
    (ht : r.todo = a :: rest) (hnil : cl.pinsReturning = []) : cl'.pinsReturning = [] := by
  have hold : pinsFreed (a :: rest) = [] := by rw [← ht, ← Client.pinsReturning_some hr, hnil]
  have hrest : pinsFreed rest = [] := by
    cases a with
    | freePin i => cases hold
    | _ => exact hold
  generalize t.session = S' at hm
  cases hm with
  | ends _ _ _ hnone _ | claims _ _ _ _ _ _ _ _ hnone _ | opens _ _ hnone _ => exact Client.pinsReturning_none hnone
  | goesOn _ _ hr' htodo _ _ _ _ _ | locks _ _ _ hr' htodo _ | unlocks _ _ _ hr' htodo _ | commits _ _ _ _ hr' htodo _
  | frees _ _ _ _ hr' htodo _ => rw [Client.pinsReturning_some hr', htodo, hrest]
  | stays _ _ hr' htodo _ => rw [Client.pinsReturning_some hr', htodo, ht, hold]
  | turns _ _ _ _ hr' _ htodo =>
    rw [Client.pinsReturning_some hr']
    rcases htodo with ⟨_, h⟩ | ⟨_, _, _, _, _, h⟩ | ⟨_, _, _, h⟩ | ⟨_, _, _, _, h⟩ | ⟨_, _, _, _, h⟩ <;> rw [h]
    · rfl
    · exact gpioWriteBack_pinsFreed _ _ _ _ _
    · exact hrest
    · exact requestSpiBody_pinsFreed _ _
    · exact requestI2cBody_pinsFreed _ _

/-- An action of a client with no flag to set again sets none again. -/
theorem ActMoves.keepsFlagDown (hm : ActMoves s c cl r a rest t.session cl') (hr : cl.running = some r)
    (ht : r.todo = a :: rest) (hp : s.actPossible r = true) (hnil : cl.pinsReturning = []) (i : Nat) :
    KeepsFlagDown s t i := by
  generalize hS : t.session = S' at hm
  cases hm with
  | ends _ _ hf _ _ => exact .of_map hS fun S => (hf S).2.2
  | turns _ _ _ hf _ _ _ => exact .of_map hS fun S => (hf S).2.2
  | goesOn _ _ _ _ _ _ _ _ _ | stays _ _ _ _ _ => exact .of_session_eq hS
  | locks _ _ _ _ _ _ | commits _ _ _ _ _ _ _ => exact .of_map hS fun _ => rfl
  | unlocks _ _ _ _ _ _ => exact .of_map hS fun S => S.release_pinAvailable c
  | claims bit bank S _ _ hSs _ _ _ _ =>
    intro S' hS' hav
    obtain rfl := Option.some.inj (hSs.symm.trans hS')
    exact ⟨_, hS, by simp [Session.available_setAvailable, hav]⟩
  | frees j _ _ ha _ _ _ =>
    subst ha
    rw [Client.pinsReturning_some hr, ht] at hnil
    cases hnil
  | opens _ ha _ _ =>
    subst ha
    intro S' hS'
    simp [State.actPossible_makeSession ht hp] at hS'

end

/-- Without `PIN_RELEASE` no plan sets a flag again. -/
theorem planOf_pinsFreed {params : Params} (h : params.pinRelease = false) (cl : Client) (call : Call) :
    pinsFreed (planOf params cl call) = [] := by
  by_cases hdrop : ∃ k, call = .dropPin k
  · obtain ⟨k, rfl⟩ := hdrop
    rw [planOf, onPin, h]
    cases cl.pin k <;> rfl
  · exact (planOf_shape params cl fun k hk => hdrop ⟨k, hk⟩).pinsFreed

/-- No client has a flag to set again. -/
def State.NoneReturning (s : State) : Prop := ∀ cl ∈ s.clients, cl.pinsReturning = []

theorem State.NoneReturning.set {s t : State} {c : Nat} {cl' : Client} (h : s.NoneReturning)
    (hC : t.clients = s.clients.set c cl') (hcl : cl'.pinsReturning = []) : t.NoneReturning := by
  intro x hx
  rw [hC] at hx
  rcases List.mem_or_eq_of_mem_set hx with hx | rfl
  · exact h x hx
  · exact hcl

theorem SessionMoves.noneReturning {s t : State} (hm : SessionMoves s t) (hparams : s.params.pinRelease = false)
    (h : s.NoneReturning) : t.NoneReturning := by
  cases hm with
  | keeps hS hC => exact fun x hx => h x (hC ▸ hx)
  | acts hc hr ht hp hC hm => exact h.set hC (hm.pinsReturning_eq_nil hr ht (h _ (List.mem_of_getElem? hc)))
  | returns res hc hr hS hC => exact h.set hC rfl
  | starts calls op hc hr hp hS ht hC =>
    refine h.set hC ?_
    rw [Client.pinsReturning_some rfl, ht, planOf_pinsFreed hparams]
  | tearsDown hS hC => exact fun x hx => Client.pinsReturning_none (hC x hx).1

theorem SessionMoves.keepsFlagDown {s t : State} (hm : SessionMoves s t) (h : s.NoneReturning) (i : Nat) :
    t.session = none ∨ KeepsFlagDown s t i := by
  cases hm with
  | keeps hS hC => exact .inr (.of_session_eq hS)
  | acts hc hr ht hp hC hm => exact .inr (hm.keepsFlagDown hr ht hp (h _ (List.mem_of_getElem? hc)) i)
  | returns res hc hr hS hC => exact .inr (.of_map hS fun S => S.release_pinAvailable _)
  | starts calls op hc hr hp hS ht hC => exact .inr (.of_session_eq hS)
  | tearsDown hS hC => exact .inl hS

/-! ### The obligations -/

/-- Settles O31: `div(f) + 1` is the quotient of `F0 + f` by `2 f`, rounded down. -/
theorem divisorFormulaRoundsToNearest : Obligations.DivisorFormulaRoundsToNearest := by
  intro f hpos hle
  have hquot : divisorOf f + 1 = (60000000 + f) / (2 * f) := divisorOf_succ hpos hle
  have hlt : 60000000 + f < 2 * f * ((60000000 + f) / (2 * f) + 1) := Nat.lt_mul_div_succ _ (by omega)
  rw [← hquot] at hlt
  exact ⟨hquot ▸ Nat.mul_div_le _ _, hlt⟩

/-- Settles O32: the tables are evaluated class by class, the bus clock from the product that gives `F0`. -/
theorem speedClassesDivisorsAndCompatibility : Obligations.SpeedClassesDivisorsAndCompatibility := by
  refine ⟨fun v => by cases v <;> rfl, fun v => by cases v <;> rfl,
    fun d hdiv5 hthree hadaptive => ⟨fun v => ?_, fun v => ?_⟩, ⟨rfl, rfl⟩, fun r hr => ?_,
    fun r hr => ?_, SpiSpeed.compatible_iff, I2cSpeed.compatible_iff⟩
  · rw [Device.busClock_setDivisor hdiv5 hthree hadaptive v.f0_eq, v.cast_madeHz]
  · exact Device.busClock_setDivisor hdiv5 hthree hadaptive v.f0_eq
  · cases r with
    | auto => exact absurd rfl hr
    | _ => rfl
  · cases r with
    | auto => exact absurd rfl hr
    | _ => rfl

/-- Settles O28: the chip executes the ten bytes of `OPEN_SEQ` on the device at launch, and then the session is made. -/
theorem openReachesTheResetState : Obligations.OpenReachesTheResetState := by
  intro s c cl calls os ds hS hcl hcalls hr halone hs hh hopens hok
  have h : Opening s c cl calls := ⟨hS, hcl, hcalls, hr, halone, hs, hh⟩
  refine ⟨_, _, _, h.opens hopens hok, rfl, Device.configured_openCommands _ _, fun hclean => ?_, rfl, rfl, rfl, rfl, rfl,
    hh⟩
  rw [hclean]
  exact ⟨rfl, rfl⟩

/-- Settles O29: a device that does not open halts the run; a failed `Send` ends `open` with its error. -/
theorem openFailureLeavesNoSession : Obligations.OpenFailureLeavesNoSession := by
  intro s c cl calls opens ds hS hcl hcalls hr halone hs hh hopens
  have h : Opening s c cl calls := ⟨hS, hcl, hcalls, hr, halone, hs, hh⟩
  constructor
  · rintro rfl
    refine ⟨_, h.start (.of_eq (State.opening_openDevice_fails hopens)), hS, rfl, ?_⟩
    exact step_empty (s := (s.opening c cl calls openPlan).afterHalt ds) hs
  · rintro e os rfl hfails
    obtain ⟨k, o, hend⟩ := State.opening_sendOpen_fails (s := s.launched ds) (calls := calls) (rest := [.makeSession])
      (todo := [.sendOpen, .makeSession]) h.lt hr hS hfails
    exact ⟨_, h.launches hopens (.of_eq hend), hS, rfl, hh, rfl, rfl⟩

/-- Settles O30: the flag is written before the `Send`, whose outcome decides what is left of it. -/
theorem setLoopbackWritesFlagAndSends : Obligations.SetLoopbackWritesFlagAndSends := by
  intro s S c cl enabled calls h
  have hbytes : loopback enabled = [if enabled then 0x84 else 0x85] := by cases enabled <;> rfl
  constructor
  · intro os hok
    refine h.writesLoopback ?_
    rw [State.locked_sendLoopback (T := S.setLoopback enabled) h.lt h.lock h.running hok, loopback_eq]
    refine Reaches.sent (s := s.answered (S.setLoopback enabled) c cl calls (.ok .unit)) h.stream
      (loopbackCommand_configures enabled) (.of_eq ?_)
    rw [← hbytes, loopback_eq]
    cases enabled <;> rfl
  · intro e os hfails
    obtain ⟨k, o, hend⟩ := State.locked_sendLoopback_fails (T := S.setLoopback enabled) h.lt h.lock h.running hfails
    refine ⟨_, h.writesLoopback (.of_eq hend), ?_, rfl, rfl, by rw [← hbytes]; rfl⟩
    cases hroll : s.params.loopbackRollback <;> rfl

/-- Settles O33: the three cases of `requestSpiBody`, the last with both outcomes of its `Send`. -/
theorem requestSpiFollowsBusMode : Obligations.RequestSpiFollowsBusMode := by
  intro s S c cl speed calls h
  refine ⟨fun v hmode => h.matchesSpi hmode (h.raises .busBusy), fun v hmode hcomp => h.matchesSpi hmode ?_,
    fun v hmode hcomp => h.matchesSpi hmode ?_, fun os hmode hok => h.matchesSpi hmode ?_, fun e os hmode hfails => ?_⟩
  · rw [requestSpiBody, hcomp]
    exact h.raises .invalidClock
  · rw [requestSpiBody, hcomp]
    refine h.actLocked rfl h.stream h.halted rfl (.of_eq ?_)
    exact (State.locked_giveSpi h.lt h.lock h.running speed).trans (h.answered_eq _)
  · refine h.setsUp (is := setupCommands 0x00 speed.resolve.divisor) rfl hok rfl (.of_eq ?_)
    exact State.locked_giveSpi (s := s.configured c _ os) (T := S.setBusMode (.spi speed.resolve)) h.lt h.lock h.running
      speed
  · obtain ⟨k, o, hend⟩ := h.send_fails h.lock h.running hfails
    exact ⟨_, h.matchesSpi hmode hend, rfl, rfl, rfl⟩

/-- Settles O34: the three cases of `requestI2cBody`, the last with both outcomes of its `Send`. -/
theorem requestI2cFollowsBusMode : Obligations.RequestI2cFollowsBusMode := by
  intro s S c cl speed calls h
  refine ⟨fun v hmode => h.matchesI2c hmode (h.raises .busBusy), fun v hmode hcomp => h.matchesI2c hmode ?_,
    fun v hmode hcomp => h.matchesI2c hmode ?_, fun os hmode hok => h.matchesI2c hmode ?_, fun e os hmode hfails => ?_⟩
  · rw [requestI2cBody, hcomp]
    exact h.raises .invalidClock
  · rw [requestI2cBody, hcomp]
    refine h.actLocked rfl h.stream h.halted rfl (.of_eq ?_)
    exact (State.locked_giveI2c h.lt h.lock h.running speed).trans (h.answered_eq _)
  · refine h.setsUp (is := setupCommands 0x03 speed.resolve.divisor) rfl hok rfl (.of_eq ?_)
    exact State.locked_giveI2c (s := s.configured c _ os) (T := S.setBusMode (.i2c speed.resolve)) h.lt h.lock h.running
      speed
  · obtain ⟨k, o, hend⟩ := h.send_fails h.lock h.running hfails
    exact ⟨_, h.matchesI2c hmode hend, rfl, rfl, rfl⟩

/-- Settles O36: the three cases of the body of `acquirePin`. -/
theorem acquirePinChecksThenClaims : Obligations.AcquirePinChecksThenClaims := by
  intro s S c cl bit bank calls h
  have hclaims : ∀ {u}, (s.locked S c cl calls (.acquirePin bit bank) [.claimPin bit bank]).claimPin c
      (S.setLock (.held c)) bit bank = u → Reaches s u := fun he =>
    h.runsBody (by simp) rfl rfl (.of_eq he)
  refine ⟨fun hv => hclaims ?_, fun hv hav => hclaims ?_, fun hv hav => hclaims ?_⟩
  · rw [State.locked_claimPin_invalid h.lt h.lock h.running hv, h.answered_eq]
  · rw [State.locked_claimPin_busy h.lt h.lock h.running hv hav, h.answered_eq]
  · exact State.locked_claimPin h.lt h.lock h.running hv hav

/-- Settles O37: with `PIN_RELEASE` the flag is set under the lock, without it nothing but the handle goes. -/
theorem pinLifetimeEndReleasesOnlyIfConfigured : Obligations.PinLifetimeEndReleasesOnlyIfConfigured := by
  intro s S c cl k pin calls h hpin
  cases hrelease : s.params.pinRelease with
  | true => exact h.dropsPin_releasing hpin hrelease
  | false =>
    refine .trans (h.dropsPin_keeping hpin hrelease) (.of_eq ?_)
    exact (h.answered_eq _).symm

/-- Settles O38: teardown is one step; the other two clauses are read off `State.callPossible`. -/
theorem teardownEndsSessionAndHandles : Obligations.TeardownEndsSessionAndHandles :=
  ⟨fun _ _ _ _ _ h => h.tearsDown,
    fun _ _ _ _ hx hr => by rw [State.callPossible, State.noOperation_eq_false hx hr, Bool.and_false],
    fun _ _ _ hS hne => State.callPossible_eq_false hS hne⟩

/-- Settles O58: only `freePin` sets a flag again, and without `PIN_RELEASE` no plan has it. -/
theorem pinsAreNeverReleased : Obligations.PinsAreNeverReleased := by
  intro s t hparams hnone hstep
  obtain ⟨o, hm⟩ := step_sessionMoves hstep
  have h : (s.withOracle o).NoneReturning := hnone
  refine ⟨hm.noneReturning hparams h, fun S i hS hav => ?_⟩
  exact (hm.keepsFlagDown h i).imp_right fun hkeeps => hkeeps S hS hav

end Sys2Proof.Machine
end

section
/-! PROOFS. The family of 41_command_encoder.md: what each command does (R131 to R157), its response bytes (R158 to
R160), the order of the commands (R162), and a `Receive` that may hang or fails (R161, R164). -/

namespace Sys2Proof

/-- The value of a two-byte field, low byte first (R53). -/
theorem get16_toNat (lo hi : Byte) : (get16 lo hi).toNat = lo.toNat + 256 * hi.toNat := by
  rw [get16, BitVec.toNat_append, ← Nat.shiftLeft_add_eq_or_of_lt lo.isLt, Nat.shiftLeft_eq]
  omega

end Sys2Proof

namespace Sys2Proof.Machine

/-! ### Banks (R131, R132) -/

theorem State.setBank_idem (s : State) (b : Bank) (value dir : Byte) :
    (s.setBank b value dir).setBank b value dir = s.setBank b value dir :=
  congrArg s.withDevice (s.device.setBank_idem b value dir)

theorem Device.drives_setBank_same (d : Device) (b : Bank) (value dir : Byte) (i : Nat) :
    (d.setBank b value dir).drives b i = if dir.getLsbD i then some (value.getLsbD i) else none := by
  simp only [Device.drives, Device.setBank, PerBank.get_set_same]

theorem Device.drives_setBank_other (d : Device) {b b' : Bank} (value dir : Byte) (i : Nat) (h : b' ≠ b) :
    (d.setBank b value dir).drives b' i = d.drives b' i := by
  simp only [Device.drives, Device.setBank, PerBank.get_set_other _ _ h]

/-! ### The bus clock (R138) -/

/-- With the three clock modes off the bus clock is `F0 / (2 * (D.divisor + 1))`. -/
theorem Device.busClock_modesOff {d : Device} {v : Half} (hv : d.divisor = some v) (hdiv5 : d.div5 = false)
    (hthree : d.threePhase = false) (hadaptive : d.adaptive = false) :
    d.busClock = some ((Config.f0 : Rat) / (2 * ((v.toNat : Rat) + 1))) := by
  simp [Device.busClock, hv, hdiv5, hthree, hadaptive]

/-! ### Bits in wire order (R73, R156) -/

theorem bitsMsb_eq (b : Byte) : bitsMsb b = (List.range 8).map fun j => b.getLsbD (7 - j) := rfl

theorem outBits_eq {k : Nat} (data : Byte) (hk : k ≤ 8) :
    outBits k data = (List.range k).map fun j => data.getLsbD (7 - j) := by
  rw [outBits, bitsMsb_eq, ← List.map_take, List.take_range, Nat.min_eq_left hk]

/-- The last `k` bits on the wire are the low `k` bits of the byte. -/
theorem sampledBits_eq {k : Nat} (r : Byte) (hk : k ≤ 8) :
    sampledBits k r = (List.range k).map fun j => r.getLsbD (k - 1 - j) := by
  rw [sampledBits, bitsMsb_eq]
  refine List.ext_getElem (by simp only [List.length_drop, List.length_map, List.length_range]; omega) fun j hj _ => ?_
  have hplace : 7 - (8 - k + j) = k - 1 - j := by omega
  simp [hplace]

/-! ### The clock commands that read (R149 to R152, R156, R157) -/

/-- A bit input draws one byte, and what it sampled are that byte's low bits. -/
theorem State.clockBitsIn_eq (s : State) (e : Edge) {k : Nat} (hk : k ≤ 8) {r : Byte} {o : Feed Byte}
    (h : s.oracle.response.next Config.responseByte = (r, o)) :
    s.clockBitsIn e k = ((s.withOracle { s.oracle with response := o }).withDevice (s.device.respond [r])).pushSerial
      { driven := none, sampled := some (e, (List.range k).map fun j => r.getLsbD (k - 1 - j)) } := by
  have hdraw : s.drawBytes 1 = ([r], s.withOracle { s.oracle with response := o }) := by
    simp only [State.drawBytes, Feed.nexts, h]
  rw [State.clockBitsIn, hdraw, List.flatMap_singleton, sampledBits_eq r hk]
  rfl

/-- Under loopback and in step the payload comes back, and no free value is drawn (R159). -/
theorem State.clockDuplex_loopback {s : State} (e : Edge) (p : List Byte) (hl : s.device.loopback = true)
    (hs : s.device.sync = true) :
    s.clockDuplex e p = (s.withDevice (s.device.respond p)).pushSerial
      { driven := some (e, payloadBits p), sampled := some (otherEdge e, payloadBits p) } := by
  rw [State.clockDuplex, State.duplexResponse_loopback s p hl hs]

/-- Otherwise as many free bytes come back as the payload has (R160). -/
theorem State.clockDuplex_free {s : State} (e : Edge) (p : List Byte)
    (h : (s.device.loopback && s.device.sync) = false) :
    s.clockDuplex e p =
      ((s.drawBytes p.length).2.withDevice (s.device.respond (s.drawBytes p.length).1)).pushSerial
        { driven := some (e, payloadBits p), sampled := some (otherEdge e, payloadBits (s.drawBytes p.length).1) } := by
  rw [State.clockDuplex, State.duplexResponse_free s p h]
  rfl

/-! ### The response bytes of a command (R158 to R160) -/

/-- The bytes that a command appends to `D.rx`: those of a full-duplex command, free bytes otherwise. -/
def State.answer (s : State) : Instr → List Byte
  | .msbBytesInoutWfRr p | .msbBytesInoutWrRf p => (s.duplexResponse p).1
  | i => (s.drawBytes i.responses).1

theorem State.answer_length (s : State) (i : Instr) : (s.answer i).length = i.responses := by
  cases i with
  | msbBytesInoutWfRr p | msbBytesInoutWrRf p => exact (s.duplexResponse_cases p).1
  | _ => exact s.drawBytes_length _

/-- What loopback does not fix is drawn (R160). -/
theorem State.answer_free {s : State} {i : Instr}
    (h : i.format = .fxio → (s.device.loopback && s.device.sync) = false) :
    s.answer i = (s.drawBytes i.responses).1 := by
  cases i with
  | msbBytesInoutWfRr p | msbBytesInoutWrRf p => exact congrArg Prod.fst (s.duplexResponse_free p (h rfl))
  | _ => rfl

/-- Enough given answers are the bytes drawn (log 33). -/
theorem State.drawBytes_given {s : State} {bs rs : List Byte} (h : s.oracle.response.given = bs ++ rs) :
    s.drawBytes bs.length =
      (bs, s.withOracle { s.oracle with response := ⟨rs, s.oracle.response.used⟩ }) := by
  have hfeed : s.oracle.response = ⟨bs ++ rs, s.oracle.response.used⟩ := by rw [← h]
  rw [State.drawBytes, hfeed, Feed.nexts_given]

/-- What a command does to the queue: its bytes join the end, and only the flush moves the mark. -/
structure Device.Answers (d d' : Device) (i : Instr) (bs : List Byte) : Prop where
  rx : d'.rx = d.rx ++ bs
  sync : d'.sync = d.sync
  flushed : i ≠ .sendImmediate → d'.flushed = d.flushed

theorem State.clockDuplex_answers (s : State) (e : Edge) (p : List Byte) (i : Instr) :
    s.device.Answers (s.clockDuplex e p).device i (s.duplexResponse p).1 := by
  obtain ⟨_, o, ho⟩ := s.duplexResponse_cases p
  have hdevice : (s.clockDuplex e p).device = s.device.respond (s.duplexResponse p).1 := by
    rw [State.clockDuplex, ho]
    rfl
  rw [hdevice]
  exact ⟨rfl, rfl, fun _ => rfl⟩

/-- Every command answers its bytes, which are none for those that read nothing. -/
theorem exec_answers {i : Instr} {s t : State} (h : exec i s = .next t) :
    s.device.Answers t.device i (s.answer i) := by
  cases i with
  | msbBytesInoutWfRr p => cases h; exact s.clockDuplex_answers .falling p _
  | msbBytesInoutWrRf p => cases h; exact s.clockDuplex_answers .rising p _
  | msbBytesInRising | msbBytesInFalling | msbBitsInRising | msbBitsInFalling | getBitsLow | getBitsHigh =>
    cases h; exact ⟨rfl, rfl, fun _ => rfl⟩
  | sendImmediate => cases h; exact ⟨(List.append_nil _).symm, rfl, fun hne => absurd rfl hne⟩
  | _ => cases h; exact ⟨(List.append_nil _).symm, rfl, fun _ => rfl⟩

/-- A command that loopback does not fix appends the bytes that its source gives. -/
theorem exec_rx_of_given {i : Instr} {s t : State} {bs rs : List Byte} (h : exec i s = .next t)
    (hlength : bs.length = i.responses) (hfree : i.format = .fxio → (s.device.loopback && s.device.sync) = false)
    (hgiven : s.oracle.response.given = bs ++ rs) : t.device.rx = s.device.rx ++ bs := by
  rw [(exec_answers h).rx, State.answer_free hfree, ← hlength, State.drawBytes_given hgiven]

/-! ### Commands in stream order (R162) -/

theorem execAll_cons {i : Instr} {is : List Instr} {s t : State} (h : exec i s = .next t) :
    execAll (i :: is) s = execAll is t := by
  rw [execAll, h]

theorem State.clockDuplex_withStream (s : State) (e : Edge) (p bs : List Byte) :
    (s.withStream bs).clockDuplex e p = (s.clockDuplex e p).withStream bs := by
  have hresponse : (s.withStream bs).duplexResponse p =
      ((s.duplexResponse p).1, (s.duplexResponse p).2.withStream bs) := by
    unfold State.duplexResponse
    rw [State.withStream_device]
    split <;> rfl
  rw [State.clockDuplex, hresponse]
  rfl

/-- A command does not see the bytes that wait behind it. -/
theorem exec_withStream {i : Instr} {s t : State} (bs : List Byte) (h : exec i s = .next t) :
    exec i (s.withStream bs) = .next (t.withStream bs) := by
  cases i with
  | msbBytesInoutWfRr p => cases h; exact congrArg Host.Outcome.next (s.clockDuplex_withStream .falling p bs)
  | msbBytesInoutWrRf p => cases h; exact congrArg Host.Outcome.next (s.clockDuplex_withStream .rising p bs)
  | _ => cases h; rfl

/-- The chip's run through the bytes of a list of commands is the execution of that list, one command a step. -/
theorem run_encoded {is : List Instr} (rest : List Byte) (s : State) (his : ∀ i ∈ is, i.wellFormed = true) :
    ∃ t, execAll is (s.withStream rest) = .next t ∧
      Sys2Proof.core.run is.length (s.withStream (is.flatMap encode ++ rest)) = .next t := by
  induction is generalizing s with
  | nil => exact ⟨_, rfl, rfl⟩
  | cons i is ih =>
    obtain ⟨hi, his⟩ := List.forall_mem_cons.1 his
    obtain ⟨u, hu⟩ := exec_next i s
    have hdecode : decode ((i :: is).flatMap encode ++ rest) = .command i (is.flatMap encode ++ rest) := by
      rw [List.flatMap_cons, List.append_assoc]
      exact decode_encode _ hi
    have hstep : step (s.withStream ((i :: is).flatMap encode ++ rest)) =
        .next (u.withStream (is.flatMap encode ++ rest)) := by
      rw [stepRunsTheDecodedCommand _ i _ hdecode]
      exact exec_withStream (s := s) (is.flatMap encode ++ rest) hu
    obtain ⟨t, hexec, hrun⟩ := ih u his
    exact ⟨t, (execAll_cons (exec_withStream rest hu)).trans hexec, (run_succ hstep).trans hrun⟩

/-! ### A `Receive` that may hang or fails (R161, R164) -/

theorem State.drawCompletes_given {s : State} {b : Bool} {cs : List Bool} (h : s.oracle.completes.given = b :: cs) :
    s.drawCompletes = (b, s.withOracle { s.oracle with completes := ⟨cs, s.oracle.completes.used⟩ }) := by
  rw [State.drawCompletes, Feed.next_given h]

section
variable {s s' : State} {n : Nat} {b : Bool}

/-- In step, bytes that exist and are not all deliverable: the free choice says whether they are delivered. -/
theorem State.receiveOk_held (c : Nat) (hsync : s.device.sync = true) (hrx : n ≤ s.device.rx.length)
    (hheld : s.device.flushed < n) (hdraw : s.drawCompletes = (b, s')) :
    s.receiveOk c n = if b then s'.deliver c n (s'.device.rx.take n) else (.hangs, s') := by
  rw [State.receiveOk, if_pos hsync, if_neg (fun hall => Nat.not_le.2 hheld hall.1), if_pos hrx, hdraw]

/-- In step, bytes that do not exist. -/
theorem State.receiveOk_missing (c : Nat) (hsync : s.device.sync = true) (hrx : s.device.rx.length < n) :
    s.receiveOk c n = (.hangs, s) := by
  have hnot : ¬ n ≤ s.device.rx.length := Nat.not_le.2 hrx
  rw [State.receiveOk, if_pos hsync, if_neg (fun hall => hnot hall.2), if_neg hnot]

/-- Out of step: the free choice says whether free bytes are delivered. -/
theorem State.receiveOk_desynced {s'' : State} {bs : List Byte} (c : Nat) (hsync : s.device.sync = false)
    (hdraw : s.drawCompletes = (b, s')) (hbytes : s'.drawBytes n = (bs, s'')) :
    s.receiveOk c n = if b then s''.deliver c n bs else (.hangs, s') := by
  rw [State.receiveOk, if_neg (Bool.eq_false_iff.1 hsync), hdraw]
  simp only [hbytes]

end

/-- A given answer "failure" makes a `Receive` lose bytes. -/
theorem State.receive_given_some {s : State} {e : TransportError} {os : List (Option TransportError)} (c n : Nat)
    (h : s.oracle.outcome.given = some e :: os) :
    s.receive c n =
      (s.withOracle { s.oracle with outcome := ⟨os, s.oracle.outcome.used⟩ }).loseBytes c n e := by
  rw [State.receive, State.drawOutcome_given h, State.drawOutcome_state, Feed.next_given h]

/-- Only the clients can be stuck: a command that waits is executed, and bytes without a meaning are refused. -/
theorem step_stuck {s : State} :
    step s = .fault .stuck ↔
      decode s.stream = .truncated ∧ s.halted = false ∧ s.ready = [] ∧ s.allDone = false := by
  rw [← State.agentStep_stuck]
  cases hdecode : decode s.stream with
  | truncated => simp [step, State.fetch_nothing hdecode]
  | command i rest =>
    obtain ⟨t, ht⟩ := exec_next i (s.withStream rest)
    simp [step, State.fetch_command hdecode, ht]
  | unknownOpcode op => simp [step_unknownOpcode hdecode]
  | reservedBitLength l => simp [step_reservedBitLength hdecode]

/-! ### The obligations -/

/-- Settles O18: the source gives the list, and what loopback does not fix is drawn from the source. -/
theorem responseBytesCanBeAnything : Obligations.ResponseBytesCanBeAnything := by
  intro i s bs hlength hfree
  obtain ⟨t, ht⟩ := exec_next i { s with oracle := { s.oracle with response := ⟨bs, 0⟩ } }
  have hrx := exec_rx_of_given ht hlength hfree (List.append_nil bs).symm
  exact ⟨_, t, ht, hrx⟩

/-- Settles O19, by `exec_answers`. -/
theorem commandsAppendTheirResponseCount : Obligations.CommandsAppendTheirResponseCount := by
  intro i s t h
  obtain ⟨hrx, hsync, hflushed⟩ := exec_answers h
  exact ⟨⟨_, s.answer_length i, hrx⟩, hsync, hflushed⟩

/-- Settles O22, by induction on the list of commands (`run_encoded`). -/
theorem streamRunsInOrder : Obligations.StreamRunsInOrder :=
  fun _ rest s his => run_encoded rest s his

/-- Settles O6: a bank set writes the bank's two bytes whatever they were, so the second one changes nothing. -/
theorem bankSetWritesItsWholeBank : Obligations.BankSetWritesItsWholeBank := by
  intro value dir s
  refine ⟨rfl, rfl, exec_of_configures s rfl, exec_of_configures s rfl, ?_, ?_, fun b b' i =>
    ⟨s.device.drives_setBank_same b value dir i, s.device.drives_setBank_other value dir i⟩⟩
  · exact congrArg Host.Outcome.next (s.setBank_idem .low value dir)
  · exact congrArg Host.Outcome.next (s.setBank_idem .high value dir)

/-- Settles O7: both bank gets are one draw of one byte. -/
theorem getBitsAppendsOneFreeByte : Obligations.GetBitsAppendsOneFreeByte := by
  rintro i s (rfl | rfl)
  · rfl
  · rfl

/-- Settles O8, by what the configuring commands do. -/
theorem loopbackCommandsSwitchLoopback : Obligations.LoopbackCommandsSwitchLoopback :=
  fun s => ⟨rfl, rfl, exec_of_configures s rfl, exec_of_configures s rfl⟩

/-- Settles O9: the divisor is read back from its two bytes, stored, and is the one in the clock's formula. -/
theorem setClockDivisorStoresDivisor : Obligations.SetClockDivisorStoresDivisor := by
  intro lo hi rest s
  refine ⟨rfl, get16_toNat lo hi, _, exec_of_configures s rfl, rfl, fun hdiv5 hthree hadaptive => ?_⟩
  rw [← get16_toNat]
  exact Device.busClock_modesOff rfl hdiv5 hthree hadaptive

/-- Settles O10: the flush. -/
theorem sendImmediateMarksAllDeliverable : Obligations.SendImmediateMarksAllDeliverable :=
  fun _ => ⟨rfl, rfl⟩

/-- Settles O11, by what the configuring commands do. -/
theorem clockModeCommandsSwitchTheirMode : Obligations.ClockModeCommandsSwitchTheirMode :=
  fun s => ⟨⟨rfl, rfl, rfl, rfl, rfl, rfl⟩, exec_of_configures s rfl, exec_of_configures s rfl,
    exec_of_configures s rfl, exec_of_configures s rfl, exec_of_configures s rfl, exec_of_configures s rfl⟩

/-- Settles O12: both byte outputs are `State.clockOut` of the payload's bits. -/
theorem bytesOutDriveThePayload : Obligations.BytesOutDriveThePayload :=
  fun _ _ => ⟨rfl, rfl⟩

/-- Settles O13: both bit outputs are `State.clockOut` of the top bits. -/
theorem bitsOutDriveTheTopBits : Obligations.BitsOutDriveTheTopBits := by
  intro k data s _ hk
  rw [← outBits_eq data hk]
  exact ⟨rfl, rfl⟩

/-- Settles O14: both byte inputs are one draw of `n` bytes. -/
theorem bytesInAppendCountFreeBytes : Obligations.BytesInAppendCountFreeBytes :=
  fun n s => ⟨_, _, rfl, s.drawBytes_length n, rfl, rfl⟩

/-- Settles O15: both bit inputs are one draw, of whose bits the low ones are the sampled ones. -/
theorem bitsInAppendOneFreeByte : Obligations.BitsInAppendOneFreeByte :=
  fun _ s _ hk => ⟨_, _, rfl, congrArg Host.Outcome.next (s.clockBitsIn_eq .rising hk rfl),
    congrArg Host.Outcome.next (s.clockBitsIn_eq .falling hk rfl)⟩

/-- Settles O16: under loopback and in step the response is the payload. -/
theorem fullDuplexUnderLoopbackEchoes : Obligations.FullDuplexUnderLoopbackEchoes :=
  fun p _ hl hs => ⟨congrArg Host.Outcome.next (State.clockDuplex_loopback .falling p hl hs),
    congrArg Host.Outcome.next (State.clockDuplex_loopback .rising p hl hs)⟩

/-- Settles O17: otherwise the response is drawn. -/
theorem fullDuplexOtherwiseAppendsFreeBytes : Obligations.FullDuplexOtherwiseAppendsFreeBytes := by
  intro p s h
  have hfree : (s.device.loopback && s.device.sync) = false := by simpa using h
  exact ⟨_, _, rfl, s.drawBytes_length p.length, congrArg Host.Outcome.next (State.clockDuplex_free .falling p hfree),
    congrArg Host.Outcome.next (State.clockDuplex_free .rising p hfree)⟩

/-- Settles O26: where the transport does not fail, the three cases of `State.receiveOk` that O25 leaves out; and a step
is stuck when the clients are. -/
theorem receiveThatMayHangAndStuckStep : Obligations.ReceiveThatMayHangAndStuckStep := by
  refine ⟨fun s c n b os cs o o' hok hcompletes ho ho' => ?_, fun s => step_stuck⟩
  have hdraw : (s.withOracle o).drawCompletes = (b, s.withOracle o') := by
    subst ho ho'
    exact State.drawCompletes_given hcompletes
  rw [State.receive_given_none c n hok, ← ho]
  refine ⟨fun hsync hrx hheld => ?_, fun hsync hrx => State.receiveOk_missing c hsync hrx,
    fun bs rs hsync hlength hresponse => ?_⟩
  · have hmarks : s.device.flushed - n = 0 := Nat.sub_eq_zero_of_le hheld.le
    rw [State.receiveOk_held (s := s.withOracle o) c hsync hrx hheld hdraw, ← hmarks]
    rfl
  · have hbytes : (s.withOracle o').drawBytes n =
        (bs, s.withOracle { o' with response := ⟨rs, s.oracle.response.used⟩ }) := by
      subst ho ho' hlength
      exact State.drawBytes_given hresponse
    exact State.receiveOk_desynced (s := s.withOracle o) c hsync hdraw hbytes

/-- Settles O27: the transport fails, so what is lost is the draw, cut to `n`. -/
theorem failedReceiveLosesSomeBytes : Obligations.FailedReceiveLosesSomeBytes := by
  intro s c n e os hgiven
  rw [State.receive_given_some c n hgiven]
  refine ⟨_, _, ?_, rfl⟩
  exact State.drawLost_le _ n

end Sys2Proof.Machine
end

section
/-! PROOFS. The family of 42_i2c.md: the bytes of the phases (R182 to R187), the acknowledge and the address byte (R186,
R191), the checks before the transport (R192, R198, R223, R272), a transport error (R194, R261, R262), and the three
transactions (R193, R195 to R197). -/

namespace Sys2Proof.Machine

/-! ### The acknowledge and the address (R186, R191, R192) -/

theorem ackOf_of_low {r : Byte} (h : r.getLsbD 0 = false) : ackOf r = .ack := by rw [ackOf, h]; rfl

theorem ackOf_of_high {r : Byte} (h : r.getLsbD 0 = true) : ackOf r = .nack := by rw [ackOf, h]; rfl

theorem addrRefused_iff {policy : AddrPolicy} {a : Byte} :
    addrRefused policy a = true ↔ policy = .reject ∧ 0x7F < a.toNat := by
  cases policy <;> simp [addrRefused]

/-- An address that the policy does not refuse. -/
theorem addrRefused_eq_false {policy : AddrPolicy} {a : Byte} (h : policy = .reject → a.toNat ≤ 0x7F) :
    addrRefused policy a = false :=
  Bool.eq_false_iff.2 fun hr => Nat.not_lt.2 (h (addrRefused_iff.1 hr).1) (addrRefused_iff.1 hr).2

/-! ### The commands of the phases (R183, R184, R185, R187) -/

/-- The commands of `I2C_START`. -/
def startCommands : List Instr :=
  List.replicate Config.i2cRepeat (.setBitsLow 0x03 Config.lowDir)
    ++ List.replicate Config.i2cRepeat (.setBitsLow 0x01 Config.lowDir)
    ++ List.replicate Config.i2cRepeat (.setBitsLow 0x00 Config.lowDir)

/-- The commands of `I2C_STOP`. -/
def stopCommands : List Instr :=
  List.replicate Config.i2cRepeat (.setBitsLow 0x01 Config.lowDir)
    ++ List.replicate Config.i2cRepeat (.setBitsLow 0x03 Config.lowDir)
    ++ List.replicate Config.i2cRepeat (.setBitsLow 0x03 Config.dirRelease)

/-- The commands of `I2C_WRITE_BYTE`. -/
def writeByteCommands (b : Byte) : List Instr :=
  [.setBitsLow 0x00 Config.lowDir, .msbBytesOutFalling [b], .setBitsLow 0x00 Config.dirSdaIn, .msbBitsInRising 1,
    .sendImmediate]

/-- The commands of `I2C_READ_BYTE`. -/
def readByteCommands (last : Bool) : List Instr :=
  [.setBitsLow 0x00 Config.dirSdaIn, .msbBytesInRising 1, .setBitsLow 0x00 Config.lowDir,
    .msbBitsOutFalling 1 (if last then 0xFF else 0x00), .sendImmediate]

theorem i2cStart_eq : i2cStart = startCommands.flatMap encode := rfl

theorem i2cStop_eq : i2cStop = stopCommands.flatMap encode := rfl

theorem i2cWriteByte_eq (b : Byte) : i2cWriteByte b = (writeByteCommands b).flatMap encode := rfl

theorem i2cReadByte_eq (last : Bool) : i2cReadByte last = (readByteCommands last).flatMap encode := rfl

/-- A command that writes one byte: the length field is 0 (R72). -/
theorem encode_byteOutFalling (b : Byte) : encode (.msbBytesOutFalling [b]) = [0x11, 0x00, 0x00, b] := by
  rw [encode, Instr.operands, List.length_singleton]
  rfl

theorem configured_startCommands (d : Device) :
    startCommands.foldl Device.configured d = d.setBank .low 0x00 Config.lowDir := rfl

theorem configured_stopCommands (d : Device) :
    stopCommands.foldl Device.configured d = d.setBank .low 0x03 Config.dirRelease := rfl

/-- The device with its low bank written, and with the bytes `bs`, all deliverable, as its queue. -/
def Device.holding (d : Device) (value dir : Byte) (bs : List Byte) : Device :=
  { d.setBank .low value dir with rx := bs, flushed := bs.length }

/-- A device with an empty queue holds nothing. -/
theorem Device.holding_nil {d : Device} (hrx : d.rx = []) (hflushed : d.flushed = 0) (value dir : Byte) :
    d.holding value dir [] = d.setBank .low value dir := by
  rw [Device.holding, List.length_nil, ← hflushed, ← hrx]
  rfl

/-- The delivery of all the bytes held. -/
theorem Device.holding_dropRx (d : Device) (value dir : Byte) (bs : List Byte) :
    (d.holding value dir bs).dropRx bs.length = d.holding value dir [] := by
  simp [Device.holding, Device.dropRx]

/-- The state `s` whose chip has left the low bank at `value` and `dir` and holds `bs`, with the free values `o` and the
record `e` of the data lines. -/
def State.driven (s : State) (value dir : Byte) (bs : List Byte) (o : Oracle) (e : List Serial) : State :=
  { s with device := s.device.holding value dir bs, oracle := o, serial := e }

/-- What the commands of a phase do on an empty queue: they leave the low bank at `value` and `dir`, and the `n` bytes
they draw wait, deliverable. -/
structure Drives (is : List Instr) (value dir : Byte) (n : Nat) : Prop where
  wellFormed : ∀ i ∈ is, i.wellFormed = true
  execAll (s : State) : s.device.rx = [] → s.device.flushed = 0 →
    ∃ e, execAll is s = .next (s.driven value dir (s.drawBytes n).1 (s.drawBytes n).2.oracle e)

theorem execAll_of_configures {is : List Instr} (s : State) (h : is.all Instr.configures = true) :
    execAll is s = .next (s.withDevice (is.foldl Device.configured s.device)) := by
  induction is generalizing s with
  | nil => rfl
  | cons i is ih =>
    rw [List.all_cons, Bool.and_eq_true] at h
    obtain ⟨hi, his⟩ := h
    rw [execAll_cons (exec_of_configures s hi), ih _ his]
    rfl

/-- Commands that only configure the device draw nothing. -/
theorem Drives.of_configures {is : List Instr} {value dir : Byte} (h : is.all Instr.configures = true)
    (hlines : ∀ d : Device, is.foldl Device.configured d = d.setBank .low value dir) : Drives is value dir 0 where
  wellFormed i hi := Instr.wellFormed_of_configures (List.all_eq_true.1 h i hi)
  execAll s hrx hflushed := by
    refine ⟨s.serial, (execAll_of_configures s h).trans (congrArg Host.Outcome.next ?_)⟩
    have hempty : s.device.holding value dir [] = s.device.setBank .low value dir := Device.holding_nil hrx hflushed _ _
    rw [hlines, ← hempty]
    rfl

theorem drives_start : Drives startCommands 0x00 Config.lowDir 0 := .of_configures rfl configured_startCommands

theorem drives_stop : Drives stopCommands 0x03 Config.dirRelease 0 := .of_configures rfl configured_stopCommands

/-- Commands that draw one byte and end with the flush. -/
theorem Drives.of_flushed {is : List Instr} {value dir : Byte} (hwf : ∀ i ∈ is, i.wellFormed = true)
    (hexec : ∀ s : State, ∃ e, Machine.execAll is s =
      .next (s.driven value dir (s.device.rx ++ (s.drawBytes 1).1) (s.drawBytes 1).2.oracle e)) :
    Drives is value dir 1 where
  wellFormed := hwf
  execAll s hrx _ := by
    obtain ⟨e, he⟩ := hexec s
    rw [hrx] at he
    exact ⟨e, he⟩

theorem drives_writeByte (b : Byte) : Drives (writeByteCommands b) 0x00 Config.dirSdaIn 1 :=
  .of_flushed (by simp [writeByteCommands, Instr.wellFormed, byteCountOk, bitCountOk]) fun _ => ⟨_, rfl⟩

theorem drives_readByte (last : Bool) : Drives (readByteCommands last) 0x00 Config.lowDir 1 :=
  .of_flushed (by simp [readByteCommands, Instr.wellFormed, byteCountOk, bitCountOk]) fun _ => ⟨_, rfl⟩

/-! ### The end of an operation, and a `Send` as an action -/

/-- What an action that ends its operation returns, where `buf` has been read. -/
def Act.result (buf : List Byte) : Act → Option Result
  | .done v => some (.ok v)
  | .doneRead => some (.ok (.bytes buf))
  | .raise e => some (.err e)
  | _ => none

theorem Act.runsInSession_of_result {buf : List Byte} {a : Act} {res : Result} (h : a.result buf = some res) :
    a.runsInSession = true := by
  cases a with
  | done | doneRead | raise => rfl
  | _ => cases h

/-- The actions that send `bs` in the phase `ph`: a `Send`, and the STOP after a NACK. -/
inductive Act.Sends : Act → Phase → List Byte → Prop where
  | send (ph : Phase) (bs : List Byte) : Act.Sends (.send ph bs) ph bs
  | stopAfterNack : Act.Sends .stopAfterNack .stop i2cStop

theorem Act.Sends.runsInSession {a : Act} {ph : Phase} {bs : List Byte} (h : a.Sends ph bs) :
    a.runsInSession = true := by
  cases h <;> rfl

section
variable {s s' : State} {c : Nat} {cl : Client} {r : Running} {a : Act} {rest : List Act} {ph : Phase} {bs : List Byte}

/-- An action that ends its operation. -/
theorem State.during_runAct_result {res : Result} (hc : c < s.clients.length) (h : a.result r.buf = some res) :
    (s.during c cl r).runAct c a rest = (s.during c cl r).finish c res := by
  cases a with
  | done | raise => cases h; rfl
  | doneRead =>
    cases h
    rw [State.runAct, State.during_bufOf hc]
    rfl
  | _ => cases h

/-- The STOP after a NACK goes on whatever becomes of its `Send`. -/
theorem State.during_stopAfterNack {e : Option TransportError} (hc : c < s.clients.length)
    (h : s.send c i2cStop = (e, s')) :
    (s.during c cl r).runAct c .stopAfterNack rest = s'.during c cl { r with phase := .stop, todo := rest } := by
  have hc' : c < s'.clients.length := by rwa [show s' = (s.send c i2cStop).2 by rw [h], (s.send_frame c i2cStop).2.1]
  rw [State.runAct, State.during_setPhase hc, State.during_send, h]
  exact State.during_goOn hc' rest

/-- A `Send` that succeeds. -/
theorem State.during_runAct_sends (ha : a.Sends ph bs) (hc : c < s.clients.length) (h : s.send c bs = (none, s')) :
    (s.during c cl r).runAct c a rest = s'.during c cl { r with phase := ph, todo := rest } := by
  cases ha with
  | send => exact State.during_sendThen hc h
  | stopAfterNack => exact State.during_stopAfterNack hc h

end

/-! ### In the middle of a transaction -/

/-- The chip executes the whole stream. -/
theorem Reaches.executes {is : List Instr} {s u : State} (hs : s.stream = is.flatMap encode)
    (his : ∀ i ∈ is, i.wellFormed = true) (hexec : execAll is (s.withStream []) = .next u) : Reaches s u := by
  obtain ⟨t, ht, hrun⟩ := run_encoded [] s his
  rw [hexec] at ht
  cases ht
  rw [List.append_nil, ← hs] at hrun
  exact ⟨_, hrun⟩

/-- The state `t`, but for client `c` that is in its transaction: the transaction began at `s` and holds the lock of the
session `S`; the chip has executed all it was sent, has its low bank at `value` and `dir`, and holds the response bytes
`pending`. `history` has been recorded, and the response bytes `rs` and the outcomes `os` will be drawn. -/
structure Stands (s : State) (S : Session) (c : Nat) (value dir : Byte) (pending : List Byte) (history : List Event)
    (rs : List Byte) (os : List (Option TransportError)) (t : State) : Prop where
  session : t.session = some (S.setLock (.held c))
  clients : t.clients = s.clients
  params : t.params = s.params
  halted : t.halted = false
  stream : t.stream = []
  device : t.device = s.device.holding value dir pending
  history : t.history = history
  responses : t.oracle.response.given = rs
  outcomes : t.oracle.outcome.given = os

/-- Where a transaction is: what it has left to do, what it has read, and the response bytes that wait for it. -/
structure Place where
  todo : List Act
  buf : List Byte
  pending : List Byte

/-- The operation at a place. -/
def Place.running (p : Place) (call : Call) (ph : Phase) : Running := ⟨call, ph, p.todo, p.buf, false⟩

/-- A transaction of client `c` that began at `s` gets from the place `p` to the place `p'` with the transport calls
`events`, if they succeed and the chip answers `bs`. -/
def Performs (s : State) (S : Session) (c : Nat) (p p' : Place) (events : List Event) (bs : List Byte) : Prop :=
  ∀ (t : State) (y : Client) (call : Call) (ph : Phase) (value dir : Byte) (history : List Event) (rs : List Byte)
    (os : List (Option TransportError)),
    Stands s S c value dir p.pending history (bs ++ rs) (List.replicate events.length none ++ os) t →
    ∃ t' ph' value' dir', Stands s S c value' dir' p'.pending (history ++ events) rs os t' ∧
      Reaches (t.during c y (p.running call ph)) (t'.during c y (p'.running call ph'))

section
variable {s t : State} {S : Session} {c : Nat} {cl y : Client} {call : Call} {calls : List Call}

theorem Performs.refl (p : Place) : Performs s S c p p [] [] := by
  intro t y call ph value dir history rs os hst
  exact ⟨t, ph, value, dir, (List.append_nil history).symm ▸ hst, .refl _⟩

theorem Performs.trans {p p' p'' : Place} {events events' : List Event} {bs bs' : List Byte}
    (h : Performs s S c p p' events bs) (h' : Performs s S c p' p'' events' bs') :
    Performs s S c p p'' (events ++ events') (bs ++ bs') := by
  intro t y call ph value dir history rs os hst
  rw [List.length_append, List.replicate_add, List.append_assoc, List.append_assoc] at hst
  obtain ⟨t', ph', value', dir', hst', hreach⟩ := h t y call ph value dir history _ _ hst
  obtain ⟨t'', ph'', value'', dir'', hst'', hreach'⟩ := h' t' y call ph' value' dir' _ _ _ hst'
  rw [List.append_assoc] at hst''
  exact ⟨t'', ph'', value'', dir'', hst'', hreach.trans hreach'⟩

variable {value dir value' dir' : Byte} {pending bs rs : List Byte} {history : List Event}
  {os : List (Option TransportError)} {a : Act} {rest : List Act} {r : Running}

theorem Stands.lt (hst : Stands s S c value dir pending history rs os t) (h : Calling s S c cl call calls) :
    c < t.clients.length := hst.clients ▸ h.lt

/-- The next action of the transaction. -/
theorem Stands.act {u : State} (hst : Stands s S c value dir pending history rs os t) (h : Calling s S c cl call calls)
    (ha : a.runsInSession = true) (ht : r.todo = a :: rest) (hr : r.hung = false)
    (hu : Reaches ((t.during c y r).runAct c a rest) u) : Reaches (t.during c y r) u := by
  have hS : t.session.isSome = true := by rw [hst.session]; rfl
  exact h.act hS hst.clients hst.stream hst.halted ht (State.actPossible_of_session ht ha hr hS) hu

/-- A `Send` that succeeds: the chip executes its commands before the client moves again. -/
theorem Stands.transmits {is : List Instr} {ph : Phase}
    (hst : Stands s S c value dir [] history (bs ++ rs) (none :: os) t)
    (h : Calling s S c cl call calls) (ha : a.Sends ph (is.flatMap encode)) (hd : Drives is value' dir' bs.length)
    (ht : r.todo = a :: rest) (hr : r.hung = false) :
    ∃ t', Stands s S c value' dir' bs (history ++ [.send c (is.flatMap encode) none]) rs os t' ∧
      Reaches (t.during c y r) (t'.during c y { r with phase := ph, todo := rest }) := by
  let sent := t.sent c (is.flatMap encode) os
  let waiting := sent.during c y { r with phase := ph, todo := rest }
  have hrx : t.device.rx = [] := by rw [hst.device]; rfl
  have hflushed : t.device.flushed = 0 := by rw [hst.device]; rfl
  have hsend : t.send c (is.flatMap encode) = (none, sent) := State.send_given_none c _ hst.outcomes
  obtain ⟨e, hexec⟩ := hd.execAll (waiting.withStream []) hrx hflushed
  rw [State.drawBytes_given (s := waiting.withStream []) hst.responses] at hexec
  refine ⟨(sent.withStream []).driven value' dir' bs { sent.oracle with response := ⟨rs, sent.oracle.response.used⟩ } e,
    ⟨hst.session, hst.clients, hst.params, hst.halted, rfl, ?_, congrArg (· ++ _) hst.history, rfl, rfl⟩, ?_⟩
  · show t.device.holding value' dir' bs = _
    rw [hst.device]
    rfl
  · refine hst.act h ha.runsInSession ht hr ?_
    rw [State.during_runAct_sends ha (hst.lt h) hsend]
    refine .executes (is := is) ?_ hd.wellFormed hexec
    show t.stream ++ _ = _
    rw [hst.stream, List.nil_append]

/-- A `Receive` of all the bytes that wait. -/
theorem Stands.receives (hst : Stands s S c value dir bs history rs (none :: os) t) (hsync : s.device.sync = true) :
    ∃ t', t.receive c bs.length = (.bytes bs, t') ∧
      Stands s S c value dir [] (history ++ [.receive c bs.length (.ok bs)]) rs os t' := by
  have hrx : t.device.rx = bs := by rw [hst.device]; rfl
  have hflushed : t.device.flushed = bs.length := by rw [hst.device]; rfl
  have hreceive := receiveTakesFromTheFront t c bs.length os hst.outcomes (by rw [hst.device]; exact hsync)
    hflushed.ge (by rw [hflushed, hrx])
  rw [hrx, List.take_length] at hreceive
  refine ⟨_, hreceive, hst.session, hst.clients, hst.params, hst.halted, hst.stream, ?_,
    congrArg (· ++ _) hst.history, hst.responses, rfl⟩
  rw [List.drop_length, hflushed, Nat.sub_self, hst.device]
  rfl

end

/-! ### The parts of a transaction -/

section
variable {s : State} {S : Session} {c : Nat} {cl : Client} {call : Call} {calls : List Call} {value dir : Byte}
  {bs : List Byte} {a : Act} {ph : Phase} {rest : List Act} {buf : List Byte}

/-- A `Send` is one event. -/
theorem performs_send {is : List Instr} (h : Calling s S c cl call calls) (hd : Drives is value dir bs.length) :
    Performs s S c ⟨.send ph (is.flatMap encode) :: rest, buf, []⟩ ⟨rest, buf, bs⟩
      [.send c (is.flatMap encode) none] bs := by
  intro t y call ph' value dir history rs os hst
  obtain ⟨t', hst', hreach⟩ := hst.transmits h (.send ph _) hd (r := Place.running ⟨_, buf, []⟩ call ph') rfl rfl
  exact ⟨t', ph, _, _, hst', hreach⟩

/-- A `Receive` of one byte is one event; what follows is up to the action that makes it. -/
theorem performs_receive {p' : Place} {r : Byte} (h : Calling s S c cl call calls) (hsync : s.device.sync = true)
    (ha : a.runsInSession = true) (hp : p'.pending = [])
    (hact : ∀ (t t' : State) (y : Client) (call : Call) (ph : Phase), c < t'.clients.length →
      t.receive c 1 = (.bytes [r], t') →
        (t.during c y (Place.running ⟨a :: rest, buf, [r]⟩ call ph)).runAct c a rest =
          t'.during c y (p'.running call ph)) :
    Performs s S c ⟨a :: rest, buf, [r]⟩ p' [.receive c 1 (.ok [r])] [] := by
  intro t y call ph value dir history rs os hst
  obtain ⟨t', hreceive, hst'⟩ := hst.receives hsync
  refine ⟨t', ph, value, dir, by rw [hp]; exact hst', hst.act h ha rfl rfl ?_⟩
  rw [hact t t' y call ph (hst'.lt h) hreceive]
  exact .refl _

theorem performs_ack (h : Calling s S c cl call calls) (hsync : s.device.sync = true) {r : Byte}
    (hr : r.getLsbD 0 = false) :
    Performs s S c ⟨.ack :: rest, buf, [r]⟩ ⟨rest, buf, []⟩ [.receive c 1 (.ok [r])] [] := by
  refine performs_receive h hsync rfl rfl fun t t' y call ph hc hreceive => ?_
  rw [State.runAct, State.during_receiveThen hreceive, List.headD_cons, ackOf_of_low hr]
  exact State.during_goOn hc rest

theorem performs_nack (h : Calling s S c cl call calls) (hsync : s.device.sync = true) {r : Byte}
    (hr : r.getLsbD 0 = true) :
    Performs s S c ⟨.ack :: rest, buf, [r]⟩ ⟨abortNack, buf, []⟩ [.receive c 1 (.ok [r])] [] := by
  refine performs_receive h hsync rfl rfl fun t t' y call ph hc hreceive => ?_
  rw [State.runAct, State.during_receiveThen hreceive, List.headD_cons, ackOf_of_high hr]
  exact State.during_goOn hc abortNack

theorem performs_read (h : Calling s S c cl call calls) (hsync : s.device.sync = true) (r : Byte) :
    Performs s S c ⟨.read 1 :: rest, buf, [r]⟩ ⟨rest, buf ++ [r], []⟩ [.receive c 1 (.ok [r])] [] := by
  refine performs_receive h hsync rfl rfl fun t t' y call ph hc hreceive => ?_
  rw [State.runAct, State.during_receiveThen hreceive, State.during_appendBuf hc]
  exact State.during_goOn hc rest

/-- START, and the repeated START. -/
theorem performs_start (h : Calling s S c cl call calls) :
    Performs s S c ⟨.send ph i2cStart :: rest, buf, []⟩ ⟨rest, buf, []⟩ [.send c i2cStart none] [] := by
  rw [i2cStart_eq]
  exact performs_send (bs := []) h drives_start

/-- The transport calls of a byte phase that writes `b` and is answered `r`. -/
def exchange (c : Nat) (b r : Byte) : List Event := [.send c (i2cWriteByte b) none, .receive c 1 (.ok [r])]

theorem performs_acknowledgedByte (h : Calling s S c cl call calls) (hsync : s.device.sync = true) (b : Byte) {r : Byte}
    (hr : r.getLsbD 0 = false) :
    Performs s S c ⟨.send ph (i2cWriteByte b) :: .ack :: rest, buf, []⟩ ⟨rest, buf, []⟩ (exchange c b r) [r] := by
  rw [exchange, i2cWriteByte_eq]
  exact (performs_send (bs := [r]) h (drives_writeByte b)).trans (performs_ack h hsync hr)

theorem performs_refusedByte (h : Calling s S c cl call calls) (hsync : s.device.sync = true) (b : Byte) {r : Byte}
    (hr : r.getLsbD 0 = true) :
    Performs s S c ⟨.send ph (i2cWriteByte b) :: .ack :: rest, buf, []⟩ ⟨abortNack, buf, []⟩ (exchange c b r) [r] := by
  rw [exchange, i2cWriteByte_eq]
  exact (performs_send (bs := [r]) h (drives_writeByte b)).trans (performs_nack h hsync hr)

/-- The transport calls of a read phase that reads `r`. -/
def readExchange (c : Nat) (last : Bool) (r : Byte) : List Event :=
  [.send c (i2cReadByte last) none, .receive c 1 (.ok [r])]

theorem performs_readPhase (h : Calling s S c cl call calls) (hsync : s.device.sync = true) (last : Bool) (r : Byte) :
    Performs s S c ⟨readPhase last ++ rest, buf, []⟩ ⟨rest, buf ++ [r], []⟩ (readExchange c last r) [r] := by
  rw [readPhase, readExchange, i2cReadByte_eq]
  exact (performs_send (bs := [r]) h (drives_readByte last)).trans (performs_read h hsync r)

/-- A byte to write, with the phase it is written in. -/
def bytePhase (x : Phase × Byte) : List Act := [.send x.1 (i2cWriteByte x.2), .ack]

/-- Byte phases that are all acknowledged. -/
theorem performs_acknowledgedBytes (h : Calling s S c cl call calls) (hsync : s.device.sync = true)
    (xs : List (Phase × Byte)) {acks : List Byte} (hlength : acks.length = xs.length)
    (hacks : ∀ a ∈ acks, a.getLsbD 0 = false) :
    Performs s S c ⟨xs.flatMap bytePhase ++ rest, buf, []⟩ ⟨rest, buf, []⟩
      (((xs.map Prod.snd).zip acks).flatMap fun x => exchange c x.1 x.2) acks := by
  induction xs generalizing acks with
  | nil =>
    cases List.length_eq_zero_iff.1 hlength
    exact .refl _
  | cons x xs ih =>
    obtain _ | ⟨a, acks⟩ := acks
    · cases hlength
    · obtain ⟨ha, hacks⟩ := List.forall_mem_cons.1 hacks
      exact (performs_acknowledgedByte h hsync x.2 ha).trans (ih (Nat.succ.inj hlength) hacks)

/-- Read phases, of bytes with their places. -/
theorem performs_readPhases (h : Calling s S c cl call calls) (hsync : s.device.sync = true) (last : Nat → Bool)
    (xs : List (Byte × Nat)) :
    Performs s S c ⟨(xs.flatMap fun x => readPhase (last x.2)) ++ rest, buf, []⟩ ⟨rest, buf ++ xs.map Prod.fst, []⟩
      (xs.flatMap fun x => readExchange c (last x.2) x.1) (xs.map Prod.fst) := by
  induction xs generalizing buf with
  | nil =>
    rw [List.map_nil, List.append_nil]
    exact .refl _
  | cons x xs ih =>
    have htail := ih (buf := buf ++ [x.1])
    rw [List.append_assoc] at htail
    rw [List.flatMap_cons, List.append_assoc]
    exact (performs_readPhase h hsync (last x.2) x.1).trans htail

/-- Byte phases of which one is not acknowledged: nothing of the rest is sent. -/
theorem performs_refusedAt (h : Calling s S c cl call calls) (hsync : s.device.sync = true) {xs : List (Phase × Byte)}
    {sent unsent acks : List Byte} {last nack : Byte} (hsplit : xs.map Prod.snd = sent ++ last :: unsent)
    (hlength : acks.length = sent.length) (hacks : ∀ a ∈ acks, a.getLsbD 0 = false) (hnack : nack.getLsbD 0 = true) :
    Performs s S c ⟨xs.flatMap bytePhase ++ rest, buf, []⟩ ⟨abortNack, buf, []⟩
      ((sent.zip acks).flatMap (fun x => exchange c x.1 x.2) ++ exchange c last nack) (acks ++ [nack]) := by
  obtain ⟨ys, zs, rfl, rfl, hzs⟩ := List.map_eq_append_iff.1 hsplit
  obtain ⟨z, zs', rfl, rfl, -⟩ := List.map_eq_cons_iff.1 hzs
  rw [List.flatMap_append, List.append_assoc]
  exact (performs_acknowledgedBytes h hsync ys (by rw [hlength, List.length_map]) hacks).trans
    (performs_refusedByte h hsync z.2 hnack)

/-- The read part of a transaction that reads `data`. -/
theorem readPhases_eq (data : List Byte) :
    readPhases data.length = data.zipIdx.flatMap fun x => readPhase (decide (x.2 + 1 = data.length)) := by
  rw [readPhases, List.range_eq_range', ← List.zipIdx_map_snd, List.flatMap_map]

theorem performs_readPart (h : Calling s S c cl call calls) (hsync : s.device.sync = true) (data : List Byte) :
    Performs s S c ⟨readPhases data.length ++ rest, buf, []⟩ ⟨rest, buf ++ data, []⟩
      (data.zipIdx.flatMap fun x => readExchange c (decide (x.2 + 1 = data.length)) x.1) data := by
  have hread := performs_readPhases (rest := rest) (buf := buf) h hsync (fun i => decide (i + 1 = data.length))
    data.zipIdx
  rwa [List.zipIdx_map_fst, ← readPhases_eq] at hread

end

/-! ### From a call to its answer -/

section
variable {s : State} {S : Session} {c : Nat} {cl : Client} {call : Call} {calls : List Call}

/-- A call whose only action ends it. -/
theorem Calling.answersAtOnce {a : Act} {res : Result} (h : Calling s S c cl call calls) (hne : call ≠ .teardown)
    (hdropped : cl.dropped call = cl) (hplan : planOf s.params cl call = [a]) (ha : a.result [] = some res) :
    Reaches s { s with clients := s.clients.set c (cl.after calls res) } := by
  refine h.start hne ?_
  rw [hdropped, hplan]
  have hp := State.actPossible_of_session (s := s) (r := ⟨call, .idle, [a], [], false⟩) rfl
    (Act.runsInSession_of_result ha) rfl (by rw [h.session]; rfl)
  refine h.act (by rw [h.session]; rfl) rfl h.stream h.halted rfl hp (.of_eq ?_)
  rw [State.during_runAct_result h.lt ha]
  exact h.unlocked_finish h.running _ res

/-- The run of a transaction from `s` to the return of `res`: START, the transport calls `phases`, and STOP, which
leaves the lines released. -/
def Transacts (s : State) (S : Session) (c : Nat) (cl : Client) (calls : List Call) (res : Result)
    (phases : List Event) : Prop :=
  ∃ t, Reaches s t ∧ t.session = some S ∧ t.clients = s.clients.set c (cl.after calls res) ∧
    t.history = s.history ++ [.send c i2cStart none] ++ phases ++ [.send c i2cStop none] ∧
    t.device = { s.device with latch := ⟨0x03, s.device.latch.high⟩, dir := ⟨0xF8, s.device.dir.high⟩ } ∧
    t.stream = [] ∧ t.params = s.params ∧ t.halted = false

theorem Calling.transacts {todo : List Act} {stop last : Act} {buf bs rs : List Byte} {res : Result}
    {phases : List Event} {n : Nat} {os : List (Option TransportError)} (h : Calling s S c cl call calls)
    (hquiet : s.device.Quiet) (hdropped : cl.dropped call = cl)
    (hplan : planOf s.params cl call = .takeLock :: .send .start i2cStart :: todo)
    (hp : Performs s S c ⟨todo, [], []⟩ ⟨[stop, last], buf, []⟩ phases bs) (hstop : stop.Sends .stop i2cStop)
    (hlast : last.result buf = some res) (hresponses : s.oracle.response.given = bs ++ rs)
    (houtcomes : s.oracle.outcome.given = List.replicate n none ++ os) (hn : n = phases.length + 2) :
    Transacts s S c cl calls res phases := by
  have hne : call ≠ .teardown := by rintro rfl; cases hplan
  have hempty := Device.holding_nil hquiet.rx hquiet.flushed
  have hlocked : Stands s S c s.device.latch.low s.device.dir.low [] s.history (bs ++ rs)
      (List.replicate ([Event.send c i2cStart none] ++ phases).length none ++ none :: os)
      (s.withSession (S.setLock (.held c))) :=
    { session := rfl, clients := rfl, params := rfl, halted := h.halted, stream := h.stream
      device := (hempty _ _).symm, history := rfl, responses := hresponses
      outcomes := by
        rw [State.withSession, houtcomes, hn, List.length_append, List.length_singleton, Nat.add_comm 1,
          List.replicate_succ', List.replicate_succ', List.append_assoc]
        rfl }
  obtain ⟨t, ph, value, dir, hst, hrun⟩ := ((performs_start (ph := .start) h).trans hp) _ { cl with calls := calls }
    call .idle _ _ _ _ _ hlocked
  obtain ⟨t', hst', hstopped⟩ := hst.transmits (bs := []) h hstop drives_stop
    (y := { cl with calls := calls }) (r := Place.running ⟨[stop, last], buf, []⟩ call ph) rfl rfl
  refine ⟨t'.returned c { cl with calls := calls } res, ?_, ?_⟩
  · refine h.toLocked hne hplan ?_
    rw [hdropped]
    refine hrun.trans (hstopped.trans (hst'.act h (Act.runsInSession_of_result hlast) rfl rfl (.of_eq ?_)))
    rw [State.during_runAct_result (hst'.lt h) hlast, State.during_finish (hst'.lt h)]
  · rw [State.returned_locked hst'.session rfl]
    refine ⟨congrArg some (Session.setLock_free h.lock), ?_, ?_, ?_, hst'.stream, hst'.params, hst'.halted⟩
    · rw [hst'.clients, Client.after, h.running]
    · rw [hst'.history, ← List.append_assoc]
      rfl
    · rw [hst'.device, hempty]
      rfl

end

/-! ### The plans of the transactions (R192, R195 to R198) -/

/-- The bytes of a write part, with their phases: the address and the payload. -/
def writePart (addr : Byte) (bytes : List Byte) : List (Phase × Byte) :=
  (.address, addrW addr) :: bytes.map fun b => (.write, b)

theorem writePart_bytes (addr : Byte) (bytes : List Byte) :
    (writePart addr bytes).map Prod.snd = (addr <<< 1) :: bytes := by
  simp [writePart, addrW]

theorem writePart_length (addr : Byte) (bytes : List Byte) : (writePart addr bytes).length = bytes.length + 1 := by
  simp [writePart]

theorem writePart_acts (addr : Byte) (bytes : List Byte) :
    (writePart addr bytes).flatMap bytePhase = addressPhase (addrW addr) ++ bytes.flatMap writePhase := by
  rw [writePart, List.flatMap_cons, List.flatMap_map]
  rfl

section
variable {policy : AddrPolicy} {addr : Byte} {bytes : List Byte} {n : Nat}

theorem i2cWriteThenReadPlan_empty (h : bytes = [] ∨ n = 0) :
    i2cWriteThenReadPlan policy addr bytes n = [.raise .invalidParams] := by
  rw [i2cWriteThenReadPlan, if_pos (by simpa using h)]

theorem i2cWritePlan_refused (hbytes : bytes ≠ []) (haddr : addrRefused policy addr = true) :
    i2cWritePlan policy addr bytes = [.raise .invalidParams] := by
  rw [i2cWritePlan, if_neg (by simpa using hbytes), if_pos haddr]

theorem i2cReadPlan_refused (hn : n ≠ 0) (haddr : addrRefused policy addr = true) :
    i2cReadPlan policy addr n = [.raise .invalidParams] := by
  rw [i2cReadPlan, if_neg hn, if_pos haddr]

theorem i2cWriteThenReadPlan_refused (haddr : addrRefused policy addr = true) :
    i2cWriteThenReadPlan policy addr bytes n = [.raise .invalidParams] := by
  rw [i2cWriteThenReadPlan, if_pos haddr, ite_self]

theorem i2cWritePlan_checked (hbytes : bytes ≠ []) (haddr : policy = .reject → addr.toNat ≤ 0x7F) :
    i2cWritePlan policy addr bytes =
      .takeLock :: .send .start i2cStart ::
        ((writePart addr bytes).flatMap bytePhase ++ [.send .stop i2cStop, .done .unit]) := by
  rw [i2cWritePlan, if_neg (by simpa using hbytes), addrRefused_eq_false haddr, writePart_acts]
  simp

theorem i2cReadPlan_checked (hn : n ≠ 0) (haddr : policy = .reject → addr.toNat ≤ 0x7F) :
    i2cReadPlan policy addr n =
      .takeLock :: .send .start i2cStart :: .send .address (i2cWriteByte (addrR addr)) :: .ack ::
        (readPhases n ++ [.send .stop i2cStop, .doneRead]) := by
  rw [i2cReadPlan, if_neg hn, addrRefused_eq_false haddr]
  simp [addressPhase]

theorem i2cWriteThenReadPlan_checked (hbytes : bytes ≠ []) (hn : n ≠ 0)
    (haddr : policy = .reject → addr.toNat ≤ 0x7F) :
    i2cWriteThenReadPlan policy addr bytes n =
      .takeLock :: .send .start i2cStart ::
        ((writePart addr bytes).flatMap bytePhase ++ .send .repeatedStart i2cStart ::
          .send .address (i2cWriteByte (addrR addr)) :: .ack ::
            (readPhases n ++ [.send .stop i2cStop, .doneRead])) := by
  rw [i2cWriteThenReadPlan, if_neg (by simpa using ⟨hbytes, hn⟩), addrRefused_eq_false haddr, writePart_acts]
  simp [addressPhase]

end

/-! ### The plans of the SPI operations (R223) -/

theorem onSpi_of_lt {cl : Client} {h : Nat} (hh : h < cl.spi.length) (plan : SpiHandle → List Act) :
    onSpi cl h plan = plan cl.spi[h] := by
  rw [onSpi, List.getElem?_eq_getElem hh]
  rfl

theorem spiTransferPlan_long (m : SpiMode) {p : List Byte} (h : 65536 < p.length) :
    spiTransferPlan m p = [.raise .invalidParams] := by
  have hne : p ≠ [] := List.ne_nil_of_length_pos (Nat.zero_lt_of_lt h)
  rw [spiTransferPlan, if_neg (by simpa using hne), if_pos (show Config.maxXfer < p.length from h)]

theorem spiWritePlan_long (m : SpiMode) {p : List Byte} (h : 65536 < p.length) :
    spiWritePlan m p = [.raise .invalidParams] := by
  have hne : p ≠ [] := List.ne_nil_of_length_pos (Nat.zero_lt_of_lt h)
  rw [spiWritePlan, if_neg (by simpa using hne), if_pos (show Config.maxXfer < p.length from h)]

/-! ### The parts of the transactions (R193, R195 to R197) -/

section
variable {s : State} {S : Session} {c : Nat} {cl : Client} {call : Call} {calls : List Call} {addr ack nack : Byte}
  {bytes acks : List Byte} {rest : List Act} {buf : List Byte}

/-- A write part that is acknowledged. -/
theorem performs_writePart (h : Calling s S c cl call calls) (hsync : s.device.sync = true)
    (hlength : acks.length = bytes.length + 1) (hacks : ∀ a ∈ acks, a.getLsbD 0 = false) :
    Performs s S c ⟨(writePart addr bytes).flatMap bytePhase ++ rest, buf, []⟩ ⟨rest, buf, []⟩
      ((((addr <<< 1) :: bytes).zip acks).flatMap fun x => exchange c x.1 x.2) acks := by
  rw [← writePart_bytes]
  exact performs_acknowledgedBytes h hsync _ (by rw [hlength, writePart_length]) hacks

/-- A write part of which one byte is not acknowledged. -/
theorem performs_writePart_refused (h : Calling s S c cl call calls) (hsync : s.device.sync = true)
    {sent unsent : List Byte} {last : Byte} (hsplit : (addr <<< 1) :: bytes = sent ++ last :: unsent)
    (hlength : acks.length = sent.length) (hacks : ∀ a ∈ acks, a.getLsbD 0 = false) (hnack : nack.getLsbD 0 = true) :
    Performs s S c ⟨(writePart addr bytes).flatMap bytePhase ++ rest, buf, []⟩ ⟨abortNack, buf, []⟩
      ((sent.zip acks).flatMap (fun x => exchange c x.1 x.2) ++ exchange c last nack) (acks ++ [nack]) :=
  performs_refusedAt h hsync ((writePart_bytes addr bytes).trans hsplit) hlength hacks hnack

/-- The read address, acknowledged, and the read part. -/
theorem performs_addressedRead (h : Calling s S c cl call calls) (hsync : s.device.sync = true)
    (hack : ack.getLsbD 0 = false) (data : List Byte) :
    Performs s S c ⟨.send .address (i2cWriteByte (addrR addr)) :: .ack :: (readPhases data.length ++ rest), [], []⟩
      ⟨rest, data, []⟩
      (exchange c (addrR addr) ack ++
        data.zipIdx.flatMap fun x => readExchange c (decide (x.2 + 1 = data.length)) x.1) (ack :: data) :=
  (performs_acknowledgedByte h hsync _ hack).trans (performs_readPart (buf := []) h hsync data)

/-- A transaction that is not acknowledged ends with a STOP and `I2cNoAck`. -/
theorem Calling.refused {todo : List Act} {phases : List Event} {rs : List Byte} {os : List (Option TransportError)}
    (h : Calling s S c cl call calls) (hquiet : s.device.Quiet) (hdropped : cl.dropped call = cl)
    (hplan : planOf s.params cl call = .takeLock :: .send .start i2cStart :: todo)
    (hp : Performs s S c ⟨todo, [], []⟩ ⟨abortNack, [], []⟩ phases (acks ++ [nack]))
    (hresponses : s.oracle.response.given = acks ++ nack :: rs)
    (houtcomes : s.oracle.outcome.given = List.replicate (phases.length + 2) none ++ os) :
    Transacts s S c cl calls (.err .i2cNoAck) phases :=
  h.transacts hquiet hdropped hplan hp .stopAfterNack rfl (by rw [hresponses, List.append_cons]) houtcomes rfl

end

/-! ### How many transport calls -/

theorem length_flatMap_pair {α β : Type} {f : α → List β} (hf : ∀ x, (f x).length = 2) (l : List α) :
    (l.flatMap f).length = 2 * l.length := by
  simp [List.length_flatMap, hf, Nat.mul_comm]

theorem exchanges_length (c : Nat) {bs rs : List Byte} (h : rs.length = bs.length) :
    ((bs.zip rs).flatMap fun x => exchange c x.1 x.2).length = 2 * bs.length := by
  rw [length_flatMap_pair fun _ => rfl, List.length_zip, h, Nat.min_self]

theorem readExchanges_length (c : Nat) (last : Nat → Bool) (data : List Byte) :
    (data.zipIdx.flatMap fun x => readExchange c (last x.2) x.1).length = 2 * data.length := by
  rw [length_flatMap_pair fun _ => rfl, List.length_zipIdx]

/-! ### A transport call that fails (R194, R261, R262) -/

section
variable {s : State} {S : Session} {c : Nat} {cl : Client} {r : Running} {a : Act} {rest : List Act} {ev : Event}
  {e : TransportError} {os : List (Option TransportError)}

/-- A state whose client is in an operation, as one in the middle of that operation. -/
theorem State.eq_during (hcl : s.clients[c]? = some cl) (hr : cl.running = some r) : s = s.during c cl r := by
  have hsame : { cl with running := some r } = cl := by rw [← hr]
  rw [State.during, hsame, State.setClient, set_eq_self_of_getElem? hcl]

/-- The transport calls of an operation that holds the lock, with the event that their failure with `e` makes. -/
inductive Act.FailsWith (c : Nat) (e : TransportError) : Act → Event → Prop where
  | send (ph : Phase) (bs : List Byte) : Act.FailsWith c e (.send ph bs) (.send c bs (some e))
  | ack : Act.FailsWith c e .ack (.receive c 1 (.err e))
  | read (n : Nat) : Act.FailsWith c e (.read n) (.receive c n (.err e))
  | readBank (bank : Bank) (bit : Nat) (level : Bool) :
      Act.FailsWith c e (.readBank bank bit level) (.receive c 1 (.err e))

/-- What a failed transport call makes of the state: the device is out of step, and the event is recorded. -/
structure Desynced (s : State) (ev : Event) (t : State) : Prop where
  session : t.session = s.session
  clients : t.clients = s.clients
  stream : t.stream = s.stream
  sync : t.device.sync = false
  history : t.history = s.history ++ [ev]

theorem State.send_fails (c : Nat) (bs : List Byte) (h : s.oracle.outcome.given = some e :: os) :
    ∃ t, s.send c bs = (some e, t) ∧ Desynced s (.send c bs (some e)) t := by
  obtain ⟨k, o, hsend⟩ := State.send_given_some c bs h
  exact ⟨_, hsend, rfl, rfl, rfl, rfl, rfl⟩

theorem State.receive_fails (c n : Nat) (h : s.oracle.outcome.given = some e :: os) :
    ∃ t, s.receive c n = (.failed e, t) ∧ Desynced s (.receive c n (.err e)) t :=
  ⟨_, State.receive_given_some c n h, rfl, rfl, rfl, rfl, rfl⟩

theorem State.during_receiveThen_fails {n : Nat} (k : List Byte → State → State) (hc : c < s.clients.length)
    (h : s.oracle.outcome.given = some e :: os) :
    ∃ t, (s.during c cl r).receiveThen c n k = t.returned c cl (.err (.transport e)) ∧
      Desynced s (.receive c n (.err e)) t := by
  obtain ⟨t, hreceive, ht⟩ := State.receive_fails c n h
  exact ⟨t, State.during_receiveThen_error hc hreceive, ht⟩

/-- The failure of a transport call ends the operation. -/
theorem State.during_runAct_fails (ha : a.FailsWith c e ev) (hc : c < s.clients.length)
    (h : s.oracle.outcome.given = some e :: os) :
    ∃ t, (s.during c cl r).runAct c a rest = t.returned c cl (.err (.transport e)) ∧ Desynced s ev t := by
  cases ha with
  | send ph bs =>
    obtain ⟨t, hsend, ht⟩ := State.send_fails c bs h
    exact ⟨t, State.during_sendThen_error hc hsend, ht⟩
  | ack | read | readBank =>
    simp only [State.runAct]
    exact State.during_receiveThen_fails _ hc h

/-- The return of an operation that holds the lock, after a failed transport call. -/
theorem Desynced.returned {t : State} (h : Desynced s ev t) (hS : s.session = some S) (hl : S.lock = .held c)
    (res : Result) : t.returned c cl res = { t with
      session := some { S with lock := .free }
      clients := s.clients.set c { cl with running := none, results := cl.results ++ [res] } } := by
  rw [State.returned_locked (h.session.trans hS) hl, h.clients]
  rfl

end

/-! ### The obligations -/

/-- Settles O40: bit 0 is the parity, and the double of a 7-bit address is an even byte. -/
theorem ackBitAndAddressByte : Obligations.AckBitAndAddressByte := by
  refine ⟨fun r => ?_, fun a ha => ?_⟩
  · have hbit : r.getLsbD 0 = decide (r.toNat % 2 = 1) := by rw [BitVec.getLsbD, Nat.testBit_zero]
    rw [ackOf, hbit]
    rcases Nat.mod_two_eq_zero_or_one r.toNat with h | h <;> simp [h]
  · have hdouble : (a <<< 1).toNat = 2 * a.toNat := by
      rw [BitVec.toNat_shiftLeft, Nat.shiftLeft_eq]
      omega
    refine ⟨hdouble, ?_⟩
    rw [addrR, BitVec.toNat_or, hdouble]
    exact (Nat.two_pow_add_eq_or_of_lt (i := 1) (b := 1) (by decide) a.toNat).symm

/-- Settles O39: START and STOP are bank sets, the last of which is what stays. -/
theorem i2cPhaseBytesAndLines : Obligations.I2cPhaseBytesAndLines := by
  refine ⟨rfl, rfl, fun b => ?_, fun _ => rfl, fun s => ⟨?_, ?_⟩⟩
  · rw [i2cWriteByte, encode_byteOutFalling]
    rfl
  · exact Reaches.configured (is := startCommands) rfl rfl (.refl _)
  · exact Reaches.configured (is := stopCommands) rfl rfl (.refl _)

/-- Settles O41: the write part is acknowledged. -/
theorem i2cWriteAcknowledged : Obligations.I2cWriteAcknowledged := by
  intro s S c cl h addr bytes acks rs os calls hcall _ hquiet hbytes haddr hlength hacks hresponses houtcomes
  have hrun := hcall.transacts hquiet rfl (i2cWritePlan_checked hbytes haddr)
    (performs_writePart hcall hquiet.sync hlength hacks) (.send _ _) rfl hresponses houtcomes (by
      rw [exchanges_length c hlength, List.length_cons]
      omega)
  exact hrun

/-- Settles O42: the NACK is in the write part, at the address of a read, or at the read address after a write part. -/
theorem i2cNotAcknowledged : Obligations.I2cNotAcknowledged := by
  rintro s S c cl h addr nack n bytes acks rs _ phases os calls - hquiet haddr rfl hcase hacks hnack hresponses
    houtcomes
  have hsync := hquiet.sync
  obtain ⟨hcall, hbytes, sent, last, unsent, hsplit, hlength, rfl⟩ | ⟨hcall, hn, rfl, rfl⟩ |
    ⟨hcall, hn, hbytes, hlength, rfl⟩ := hcase
  · obtain hcall | ⟨hcall, hn⟩ := hcall
    · exact hcall.refused hquiet rfl (i2cWritePlan_checked hbytes haddr)
        (performs_writePart_refused hcall hsync hsplit hlength hacks hnack) hresponses houtcomes
    · exact hcall.refused hquiet rfl (i2cWriteThenReadPlan_checked hbytes hn.ne' haddr)
        (performs_writePart_refused hcall hsync hsplit hlength hacks hnack) hresponses houtcomes
  · exact hcall.refused hquiet rfl (i2cReadPlan_checked hn.ne' haddr)
      (performs_refusedByte hcall hsync _ hnack) hresponses houtcomes
  · have hp := (performs_writePart (addr := addr) (buf := []) hcall hsync hlength hacks).trans
      ((performs_start (ph := .repeatedStart) hcall).trans
        (performs_refusedByte (rest := readPhases n ++ [.send .stop i2cStop, .doneRead]) (ph := .address) hcall hsync
          (addrR addr) hnack))
    rw [← List.append_assoc] at hp
    exact hcall.refused hquiet rfl (i2cWriteThenReadPlan_checked hbytes hn.ne' haddr) hp hresponses houtcomes

/-- Settles O43: the address is acknowledged, and the bytes are read. -/
theorem i2cReadAcknowledged : Obligations.I2cReadAcknowledged := by
  intro s S c cl h addr ack data rs os calls hcall _ hquiet hdata haddr hack hresponses houtcomes
  obtain ⟨t, hreach, hS, hclients, hhistory, hdevice⟩ := hcall.transacts hquiet rfl
    (i2cReadPlan_checked (by simpa using hdata) haddr) (performs_addressedRead hcall hquiet.sync hack data)
    (.send _ _) rfl hresponses houtcomes (by
      rw [List.length_append, readExchanges_length c (fun i => decide (i + 1 = data.length)), exchange,
        List.length_cons, List.length_singleton]
      omega)
  refine ⟨t, hreach, hS, hclients, ?_, hdevice⟩
  rw [hhistory]
  simp [exchange, readExchange, addrR]

/-- Settles O44: the write part is acknowledged, and so is the read address after the repeated START. -/
theorem i2cWriteThenReadAcknowledged : Obligations.I2cWriteThenReadAcknowledged := by
  intro s S c cl h addr ack bytes acks data rs os calls hcall _ hquiet hbytes hdata haddr hlength hacks hack hresponses
    houtcomes
  have hp := (performs_writePart (addr := addr) (buf := []) hcall hquiet.sync hlength hacks).trans
    ((performs_start (ph := .repeatedStart) hcall).trans
      (performs_addressedRead (rest := [.send .stop i2cStop, .doneRead]) (addr := addr) hcall hquiet.sync hack data))
  obtain ⟨t, hreach, hS, hclients, hhistory, hdevice⟩ := hcall.transacts hquiet rfl
    (i2cWriteThenReadPlan_checked hbytes (by simpa using hdata) haddr) hp (.send _ _) rfl hresponses houtcomes (by
      rw [List.length_append, List.length_append, List.length_append, exchanges_length c hlength,
        readExchanges_length c (fun i => decide (i + 1 = data.length)), exchange]
      simp only [List.length_cons, List.length_nil]
      omega)
  refine ⟨t, hreach, hS, hclients, ?_, hdevice⟩
  rw [hhistory]
  simp [exchange, readExchange, addrR]

/-- Settles O45: the operation is in the middle of its plan; a failed transport call returns, but for the STOP after a
NACK, behind which the `raise` is still to come. -/
theorem transportErrorEndsTheOperation : Obligations.TransportErrorEndsTheOperation := by
  intro s S c cl r a rest ev e os hS hl hcl hr ht hready hstream hhalted hgiven
  have hc : c < s.clients.length := (List.getElem?_eq_some_iff.1 hcl).1
  have hstep : step s = .next ((s.during c cl r).runAct c a rest) := by
    rw [← State.eq_during hcl hr, step_alone hready hstream hhalted, State.clientStep, hcl]
    simp only [hr, ht]
  refine ⟨fun ha => ?_, fun ha hrest => ?_⟩
  · have hfails : a.FailsWith c e ev := by
      obtain ⟨ph, bs, rfl, rfl⟩ | ⟨rfl, rfl⟩ | ⟨n, rfl, rfl⟩ | ⟨bank, bit, level, rfl, rfl⟩ := ha
      · exact .send ph bs
      · exact .ack
      · exact .read n
      · exact .readBank bank bit level
    obtain ⟨t, hrun, hdesynced⟩ := State.during_runAct_fails (cl := cl) (r := r) (rest := rest) hfails hc hgiven
    rw [hrun, hdesynced.returned hS hl] at hstep
    exact ⟨_, hstep, rfl, hdesynced.sync, hdesynced.stream.trans hstream, hdesynced.history, rfl⟩
  · subst ha hrest
    obtain ⟨t, hsend, hdesynced⟩ := State.send_fails c i2cStop hgiven
    have hc' : c < t.clients.length := by rw [hdesynced.clients]; exact hc
    rw [State.during_stopAfterNack hc hsend] at hstep
    refine ⟨_, _, hstep, hdesynced.session.trans hS, hdesynced.sync, hdesynced.history, rfl, ?_⟩
    have hraise : (t.during c cl { r with phase := .stop, todo := [.raise .i2cNoAck] }).clientStep c =
        t.returned c cl (.err .i2cNoAck) := by
      rw [State.clientStep, State.during_getElem? hc']
      exact State.during_finish hc' _
    rw [hraise, hdesynced.returned hS hl]
    exact ⟨rfl, rfl, rfl⟩

/-- Settles O46: the argument checks leave a plan of one action, which returns at once. -/
theorem argumentChecksComeBeforeTheTransport : Obligations.ArgumentChecksComeBeforeTheTransport := by
  intro s S c cl h addr bytes n calls
  refine ⟨fun _ => ⟨fun hcall => ?_, fun hcall => ?_, fun hcall hempty => ?_, fun hpolicy haddr hbytes hn hcall => ?_⟩,
    fun hh => ⟨fun hcall => ?_, fun hcall => ?_, fun hcall hlong => ?_⟩⟩
  · exact hcall.answersAtOnce nofun rfl (a := .done .unit) rfl rfl
  · exact hcall.answersAtOnce nofun rfl (a := .doneRead) rfl rfl
  · exact hcall.answersAtOnce nofun rfl (i2cWriteThenReadPlan_empty hempty) rfl
  · have hrefused := addrRefused_iff.2 ⟨hpolicy, haddr⟩
    obtain hcall | hcall | hcall := hcall
    · exact hcall.answersAtOnce nofun rfl (i2cWritePlan_refused hbytes hrefused) rfl
    · exact hcall.answersAtOnce nofun rfl (i2cReadPlan_refused hn.ne' hrefused) rfl
    · exact hcall.answersAtOnce nofun rfl (i2cWriteThenReadPlan_refused hrefused) rfl
  · exact hcall.answersAtOnce nofun rfl (a := .doneRead) (onSpi_of_lt hh _) rfl
  · exact hcall.answersAtOnce nofun rfl (a := .done .unit) (onSpi_of_lt hh _) rfl
  · obtain hcall | hcall := hcall
    · exact hcall.answersAtOnce nofun rfl ((onSpi_of_lt hh _).trans (spiTransferPlan_long _ hlong)) rfl
    · exact hcall.answersAtOnce nofun rfl ((onSpi_of_lt hh _).trans (spiWritePlan_long _ hlong)) rfl

end Sys2Proof.Machine
end

section
/-! PROOFS. The family of 43_spi.md: the change of a handle's mode (R220, R222, R269), and the two exchanges of a payload,
full duplex (R224, R226, R227) and write-only (R225, R226), each with the opcode of the mode (R221). -/

namespace Sys2Proof.Machine

/-! ### The mode of a handle (R220, R222) -/

/-- Modes 1 and 3 stand for no mode. -/
theorem spiModeOf_cpha_true (cpol : Bool) : spiModeOf cpol true = none := by cases cpol <;> rfl

/-- Modes 0 and 2 differ in the clock polarity. -/
theorem spiModeOf_cpha_false (cpol : Bool) : spiModeOf cpol false = some (if cpol then .mode2 else .mode0) := by
  cases cpol <;> rfl

/-- The client whose SPI handle `h` has the mode `m`. -/
def Client.setMode (cl : Client) (h : Nat) (m : SpiMode) : Client :=
  { cl with spi := cl.spi.modify h fun x => { x with mode := m } }

theorem State.during_setMode {s : State} {c : Nat} {cl : Client} {r : Running} (hc : c < s.clients.length) (h : Nat)
    (m : SpiMode) : (s.during c cl r).setMode c h m = s.during c (cl.setMode h m) r := by
  have hm := modify_eq_set (State.during_getElem? (cl := cl) (r := r) hc) (·.setMode h m)
  rw [State.during_clients, List.set_set] at hm
  exact congrArg (fun l => { s with clients := l }) hm

section
variable {s u : State} {S : Session} {c : Nat} {cl : Client} {h : Nat} {cpol cpha : Bool} {calls : List Call}

/-- `setMode` is one action, without the lock. -/
theorem Calling.setsMode (hcall : Calling s S c cl (.spiSetMode h cpol cpha) calls)
    (hu : Reaches ((s.during c { cl with calls := calls }
      ⟨.spiSetMode h cpol cpha, .idle, [.setMode h cpol cpha], [], false⟩).runAct c (.setMode h cpol cpha) []) u) :
    Reaches s u := by
  have hS : s.session.isSome = true := by rw [hcall.session]; rfl
  exact hcall.start nofun
    (hcall.act hS rfl hcall.stream hcall.halted rfl (State.actPossible_of_session rfl rfl rfl hS) hu)

theorem Calling.refusesMode (hcall : Calling s S c cl (.spiSetMode h cpol true) calls) :
    Reaches s { s with clients := s.clients.set c (cl.after calls (.err .spiModeNotSupported)) } := by
  refine hcall.setsMode (.of_eq ?_)
  simp only [State.runAct, spiModeOf_cpha_true]
  exact hcall.unlocked_finish hcall.running _ _

theorem Calling.acceptsMode (hcall : Calling s S c cl (.spiSetMode h cpol false) calls) :
    Reaches s { s with
      clients := s.clients.set c ((cl.setMode h (if cpol then .mode2 else .mode0)).after calls (.ok .unit)) } := by
  refine hcall.setsMode (.of_eq ?_)
  simp only [State.runAct, spiModeOf_cpha_false, State.during_setMode hcall.lt]
  exact hcall.unlocked_finish (y := cl.setMode h _) hcall.running _ _

end

/-! ### What the chip does with a payload (R221, R226) -/

/-- The edge on which a mode writes its payload. -/
def SpiMode.writeEdge : SpiMode → Edge
  | .mode0 => .falling
  | .mode2 => .rising

theorem spiXfer_eq (m : SpiMode) (p : List Byte) : spiXfer m p = [spiInout m p, .sendImmediate].flatMap encode := rfl

theorem spiWriteOnly_eq (m : SpiMode) (p : List Byte) : spiWriteOnly m p = [spiOut m p].flatMap encode :=
  (List.flatMap_singleton encode _).symm

theorem spiXfer_wellFormed (m : SpiMode) {p : List Byte} (h : byteCountOk p.length = true) :
    ∀ i ∈ [spiInout m p, .sendImmediate], i.wellFormed = true := by
  have hw : (spiInout m p).wellFormed = true := by cases m <;> exact h
  exact List.forall_mem_cons.2 ⟨hw, List.forall_mem_singleton.2 rfl⟩

theorem spiWriteOnly_wellFormed (m : SpiMode) {p : List Byte} (h : byteCountOk p.length = true) :
    ∀ i ∈ [spiOut m p], i.wellFormed = true := by
  have hw : (spiOut m p).wellFormed = true := by cases m <;> exact h
  exact List.forall_mem_singleton.2 hw

theorem exec_spiInout (m : SpiMode) (p : List Byte) (s : State) :
    exec (spiInout m p) s = .next (s.clockDuplex m.writeEdge p) := by
  cases m <;> rfl

theorem execAll_spiOut (m : SpiMode) (p : List Byte) (s : State) :
    execAll [spiOut m p] s = .next (s.clockOut m.writeEdge (payloadBits p)) := by
  cases m <;> rfl

/-- The response to a full-duplex command draws response bytes only. -/
theorem State.duplexResponse_draws (s : State) (p : List Byte) :
    ∃ f, (s.duplexResponse p).2 = s.withOracle { s.oracle with response := f } := by
  unfold State.duplexResponse
  split
  · exact ⟨s.oracle.response, rfl⟩
  · exact ⟨_, s.drawBytes_state _⟩

/-- The state `s` whose chip has exchanged a payload for `r`, now its queue and all deliverable; `f` are the response
bytes still to be drawn and `e` is what the data lines did. -/
def State.exchanged (s : State) (r : List Byte) (f : Feed Byte) (e : Serial) : State :=
  { s with
    device := { s.device with rx := r, flushed := r.length }
    oracle := { s.oracle with response := f }
    serial := s.serial ++ [e] }

/-- A full-duplex command and the flush, on an empty queue. -/
theorem execAll_spiXfer (m : SpiMode) (p : List Byte) {s : State} (hrx : s.device.rx = []) :
    ∃ f e, execAll [spiInout m p, .sendImmediate] s = .next (s.exchanged (s.duplexResponse p).1 f e) := by
  obtain ⟨f, hf⟩ := s.duplexResponse_draws p
  refine ⟨f, ⟨some (m.writeEdge, payloadBits p),
    some (otherEdge m.writeEdge, payloadBits (s.duplexResponse p).1)⟩, ?_⟩
  have hqueue : (s.device.respond (s.duplexResponse p).1).flush =
      { s.device with rx := (s.duplexResponse p).1, flushed := (s.duplexResponse p).1.length } := by
    simp [Device.respond, Device.flush, hrx]
  rw [execAll_cons (exec_spiInout m p s), State.clockDuplex, hf, State.exchanged, ← hqueue]
  rfl

/-! ### The plans (R223 to R225) -/

section
variable {cl : Client} {h : Nat} {x : SpiHandle} {p : List Byte}

theorem planOf_spiTransfer (params : Params) (hx : cl.spi[h]? = some x) (hp : p ≠ []) (hle : p.length ≤ 65536) :
    planOf params cl (.spiTransfer h p) =
      [.takeLock, .send .idle (spiXfer x.mode p), .read p.length, .doneRead] := by
  rw [planOf, onSpi, hx, Option.map_some, Option.getD_some, spiTransferPlan, if_neg (by simpa using hp),
    if_neg (show ¬Config.maxXfer < p.length from Nat.not_lt.2 hle)]

theorem planOf_spiWrite (params : Params) (hx : cl.spi[h]? = some x) (hp : p ≠ []) (hle : p.length ≤ 65536) :
    planOf params cl (.spiWrite h p) = [.takeLock, .send .idle (spiWriteOnly x.mode p), .done .unit] := by
  rw [planOf, onSpi, hx, Option.map_some, Option.getD_some, spiWritePlan, if_neg (by simpa using hp),
    if_neg (show ¬Config.maxXfer < p.length from Nat.not_lt.2 hle)]

theorem byteCountOk_of_payload (hp : p ≠ []) (hle : p.length ≤ 65536) : byteCountOk p.length = true :=
  (byteCountOk_iff _).2 ⟨List.length_pos_of_ne_nil hp, hle⟩

end

/-! ### Under the lock: a `Send` and its execution, a `Receive`, the return -/

/-- The state after client `c` has received all the bytes `bs` of the queue; `os` are the outcomes still given. -/
def State.received (s : State) (c : Nat) (bs : List Byte) (os : List (Option TransportError)) : State :=
  { s with
    device := { s.device with rx := [], flushed := 0 }
    history := s.history ++ [.receive c bs.length (.ok bs)]
    oracle := { s.oracle with outcome := ⟨os, s.oracle.outcome.used⟩ } }

/-- In step, a `Receive` of the whole queue, all deliverable. -/
theorem State.receive_all {s : State} (c : Nat) {bs : List Byte} {os : List (Option TransportError)}
    (hgiven : s.oracle.outcome.given = none :: os) (hsync : s.device.sync = true) (hrx : s.device.rx = bs)
    (hflushed : s.device.flushed = bs.length) : s.receive c bs.length = (.bytes bs, s.received c bs os) := by
  rw [receiveTakesFromTheFront s c _ os hgiven hsync hflushed.ge (by rw [hflushed, hrx]), hrx, hflushed,
    List.take_length, List.drop_length, Nat.sub_self, State.received]

/-- A `Receive` into the operation's buffer that completes. -/
theorem State.during_read {s s' : State} {c : Nat} {cl : Client} {r : Running} {n : Nat} {bs : List Byte}
    {rest : List Act} (hc : c < s'.clients.length) (h : s.receive c n = (.bytes bs, s')) :
    (s.during c cl r).runAct c (.read n) rest = s'.during c cl { r with buf := r.buf ++ bs, todo := rest } := by
  rw [State.runAct, State.during_receiveThen h, State.during_appendBuf hc, State.during_goOn hc]

section
variable {s s' : State} {S : Session} {c : Nat} {cl : Client} {call : Call} {calls : List Call} {rest : List Act}
  {os : List (Option TransportError)}

/-- A `Send` that succeeds: the chip executes its commands before the client moves again. -/
theorem Calling.transmits {is : List Instr} {bs : List Byte} (h : Calling s S c cl call calls)
    (hgiven : s.oracle.outcome.given = none :: os) (hbs : bs = is.flatMap encode)
    (his : ∀ i ∈ is, i.wellFormed = true)
    (hexec : execAll is (((s.sent c bs os).withStream []).locked S c cl calls call rest) =
      .next (s'.locked S c cl calls call rest)) :
    Reaches (s.locked S c cl calls call (.send .idle bs :: rest)) (s'.locked S c cl calls call rest) := by
  refine h.actLocked rfl h.stream h.halted rfl ?_
  have hsend := (s.withSession (S.setLock (.held c))).send_given_none c bs hgiven
  rw [State.runAct, State.locked, State.during_sendThen (s := s.withSession _) h.lt hsend]
  refine .executes (is := is) ?_ his hexec
  show s.stream ++ _ = _
  rw [h.stream, List.nil_append, hbs]

/-- A `Receive` of the whole queue, and the return of the bytes. -/
theorem Calling.returnsQueue {bs : List Byte} (h : Calling s S c cl call calls) (hcs : s'.clients = s.clients)
    (hs : s'.stream = []) (hh : s'.halted = false) (hgiven : s'.oracle.outcome.given = none :: os)
    (hsync : s'.device.sync = true) (hrx : s'.device.rx = bs) (hflushed : s'.device.flushed = bs.length) :
    Reaches (s'.locked S c cl calls call [.read bs.length, .doneRead])
      ((s'.received c bs os).answered S c cl calls (.ok (.bytes bs))) := by
  let t := (s'.withSession (S.setLock (.held c))).received c bs os
  have hc : c < t.clients.length := (show t.clients = s.clients from hcs) ▸ h.lt
  have hreceive : (s'.withSession (S.setLock (.held c))).receive c bs.length = (.bytes bs, t) :=
    State.receive_all c hgiven hsync hrx hflushed
  refine h.actLocked hcs hs hh rfl (.trans (.of_eq (State.during_read hc hreceive)) ?_)
  refine h.act (s' := t) rfl hcs hs hh rfl (State.actPossible_of_session rfl rfl rfl rfl) (.of_eq ?_)
  rw [State.during_runAct_result (s := t) hc rfl, State.during_finish (s := t) hc]
  exact State.returned_answered (s := s'.received c bs os) h.lock h.running _

end

/-! ### The obligations -/

/-- Settles O47: `setMode` is one action, and the clock phase decides which of its two ends it has. -/
theorem setModeAcceptsModes0And2 : Obligations.SetModeAcceptsModes0And2 := by
  intro s S c cl h cpol cpha calls hcall _
  refine ⟨?_, ?_⟩
  · rintro rfl
    exact hcall.refusesMode
  · rintro rfl
    exact hcall.acceptsMode

/-- Settles O48: the payload is exchanged for a queue of its length, which is received whole. -/
theorem spiTransferExchangesPayload : Obligations.SpiTransferExchangesPayload := by
  intro s S c cl h x p os calls hcall hx hquiet hp hle hgiven
  let sent := (s.sent c (spiXfer x.mode p) (none :: os)).withStream []
  let waiting := sent.locked S c cl calls (.spiTransfer h p) [.read p.length, .doneRead]
  obtain ⟨hlength, _⟩ := waiting.duplexResponse_cases p
  obtain ⟨f, e, hexec⟩ := execAll_spiXfer x.mode p (s := waiting) hquiet.rx
  have hecho : s.device.loopback = true → (waiting.duplexResponse p).1 = p := fun hl =>
    congrArg Prod.fst (waiting.duplexResponse_loopback p hl hquiet.sync)
  generalize (waiting.duplexResponse p).1 = r at hlength hexec hecho
  have hsend := hcall.transmits (s' := sent.exchanged r f e) hgiven (spiXfer_eq _ _)
    (spiXfer_wellFormed x.mode (byteCountOk_of_payload hp hle)) hexec
  have hreceive := hcall.returnsQueue (s' := sent.exchanged r f e) (bs := r) rfl rfl hcall.halted rfl
    hquiet.sync rfl rfl
  rw [hlength] at hreceive
  refine ⟨_, r, hcall.toLocked nofun (planOf_spiTransfer _ hx hp hle) (hsend.trans hreceive), hlength, hecho, rfl, ?_,
    rfl, ?_⟩
  · show { s.device with rx := [], flushed := 0 } = s.device
    rw [← hquiet.rx, ← hquiet.flushed]
  · show s.history ++ [_] ++ [_] = _
    rw [List.append_assoc, hlength]
    cases x.mode with
    | mode0 | mode2 => rfl

/-- Settles O49: the payload is driven on the mode's edge, and nothing comes back. -/
theorem spiWriteSendsPayload : Obligations.SpiWriteSendsPayload := by
  intro s S c cl h x p os calls hcall hx hp hle hgiven
  let driven := ((s.sent c (spiWriteOnly x.mode p) os).withStream []).clockOut x.mode.writeEdge (payloadBits p)
  have hsend := hcall.transmits (s' := driven) (call := .spiWrite h p) (rest := [.done .unit]) hgiven
    (spiWriteOnly_eq _ _) (spiWriteOnly_wellFormed x.mode (byteCountOk_of_payload hp hle)) (execAll_spiOut x.mode p _)
  have hreturn : Reaches (driven.locked S c cl calls (.spiWrite h p) [.done .unit])
      (driven.answered S c cl calls (.ok .unit)) :=
    hcall.actLocked rfl rfl hcall.halted rfl
      (.of_eq (State.locked_finish (s := driven) hcall.lt hcall.lock hcall.running _))
  refine ⟨_, hcall.toLocked nofun (planOf_spiWrite _ hx hp hle) (hsend.trans hreturn), rfl, rfl, rfl, ?_⟩
  show s.history ++ [_] = _
  cases x.mode with
  | mode0 | mode2 => rfl

end Sys2Proof.Machine
end

section
/-! PROOFS. The family of 44_gpio.md: the read-modify-write of a bank (R241 to R245), and the update that two of them on
one bank can lose (R246). -/

namespace Sys2Proof.Machine

/-! ### The byte written (R243, R244) -/

/-- `1 << bit` has the one bit. -/
theorem pinMask_getLsbD (bit : Nat) {i : Nat} (hi : i < 8) :
    (BitVec.ofNat 8 (1 <<< bit)).getLsbD i = decide (bit = i) := by
  rw [BitVec.getLsbD_ofNat, Nat.one_shiftLeft, Nat.testBit_two_pow, decide_eq_true hi, Bool.true_and]

/-- One bit is set or cleared, and the others stay. -/
theorem withPin_getLsbD (v : Byte) (bit : Nat) (level : Bool) {i : Nat} (hi : i < 8) :
    (withPin v bit level).getLsbD i = if i = bit then level else v.getLsbD i := by
  have hall : (BitVec.ofNat 8 0xFF).getLsbD i = true := by
    rw [show BitVec.ofNat 8 0xFF = BitVec.allOnes 8 from rfl, BitVec.getLsbD_allOnes, decide_eq_true hi]
  cases level with
  | true =>
    have hset : (withPin v bit true).getLsbD i = (v.getLsbD i || decide (bit = i)) := by
      rw [← pinMask_getLsbD bit hi]
      exact BitVec.getLsbD_or
    obtain rfl | h := eq_or_ne i bit
    · simp [hset]
    · simp [hset, h, h.symm]
  | false =>
    have hclear : (withPin v bit false).getLsbD i = (v.getLsbD i && !decide (bit = i)) := by
      rw [← pinMask_getLsbD bit hi, ← Bool.true_xor, ← hall, ← BitVec.getLsbD_xor]
      exact BitVec.getLsbD_and
    obtain rfl | h := eq_or_ne i bit
    · simp [hclear]
    · simp [hclear, h, h.symm]

/-! ### The commands of a bank (R241, R242) -/

/-- The command that reads a bank. -/
def bankGet : Bank → Instr
  | .low => .getBitsLow
  | .high => .getBitsHigh

/-- The command that writes a bank. -/
def bankSet : Bank → Byte → Byte → Instr
  | .low => .setBitsLow
  | .high => .setBitsHigh

theorem gpioRead_eq (bank : Bank) : gpioRead bank = [bankGet bank, .sendImmediate].flatMap encode := by
  cases bank <;> rfl

theorem gpioWrite_eq (bank : Bank) (v : Byte) :
    gpioWrite bank v = [bankSet bank v (dirOf bank)].flatMap encode := by
  cases bank <;> rfl

theorem gpioRead_wellFormed (bank : Bank) : ∀ i ∈ [bankGet bank, .sendImmediate], i.wellFormed = true := by
  cases bank <;> exact List.forall_mem_cons.2 ⟨rfl, List.forall_mem_singleton.2 rfl⟩

theorem bankSet_configures (bank : Bank) (value dir : Byte) :
    [bankSet bank value dir].all Instr.configures = true := by
  cases bank <;> rfl

theorem exec_bankGet (bank : Bank) (s : State) : exec (bankGet bank) s = .next s.getBank := by
  cases bank <;> rfl

/-- The state `s` whose chip has answered `v`, now its queue and deliverable; `rs` are the answers still given. -/
def State.heldByte (s : State) (v : Byte) (rs : List Byte) : State :=
  { s with
    device := { s.device with rx := [v], flushed := 1 }
    oracle := { s.oracle with response := ⟨rs, s.oracle.response.used⟩ } }

/-- A bank get and the flush, on an empty queue. -/
theorem execAll_gpioRead (bank : Bank) {s : State} {v : Byte} {rs : List Byte} (hrx : s.device.rx = [])
    (hgiven : s.oracle.response.given = v :: rs) :
    execAll [bankGet bank, .sendImmediate] s = .next (s.heldByte v rs) := by
  have hdraw := State.drawBytes_given (bs := [v]) hgiven
  have hqueue : (s.device.respond [v]).flush = { s.device with rx := [v], flushed := 1 } := by
    simp [Device.respond, Device.flush, hrx]
  rw [execAll_cons (exec_bankGet bank s), State.getBank, show s.drawBytes 1 = _ from hdraw, State.heldByte, ← hqueue]
  rfl

/-! ### The call (R242) -/

/-- The call that sets a pin to `level`. -/
def gpioSet (h : Nat) (level : Bool) : Call := if level then .gpioSetHigh h else .gpioSetLow h

theorem gpioSet_ne_teardown (h : Nat) (level : Bool) : gpioSet h level ≠ .teardown := by cases level <;> nofun

theorem Client.dropped_gpioSet (cl : Client) (h : Nat) (level : Bool) : cl.dropped (gpioSet h level) = cl := by
  cases level <;> rfl

theorem planOf_gpioSet (params : Params) {cl : Client} {h : Nat} {pin : PinHandle} (level : Bool)
    (hpin : cl.pin h = some pin) : planOf params cl (gpioSet h level) = gpioPlan pin level := by
  cases level <;> simp [gpioSet, planOf, onPin, hpin]

theorem State.startCall_gpioSet (s : State) (c : Nat) {cl : Client} {h : Nat} {pin : PinHandle} (level : Bool)
    (calls : List Call) (hpin : cl.pin h = some pin) :
    s.startCall c cl (gpioSet h level) calls =
      s.during c { cl with calls := calls } ⟨gpioSet h level, .idle, gpioPlan pin level, [], false⟩ := by
  rw [← planOf_gpioSet s.params level hpin]
  cases level <;> rfl

theorem State.callPossible_gpioSet {s : State} {cl : Client} {h : Nat} {pin : PinHandle} (level : Bool)
    (hS : s.session.isSome = true) (hpin : cl.pin h = some pin) : s.callPossible cl (gpioSet h level) = true := by
  cases level <;> simp [gpioSet, State.callPossible, hS, hpin]

/-! ### The actions (R55, R242) -/

/-- The state after client `c` has read `v` off a bank; `rs` and `os` are the answers and the outcomes still given. -/
def State.bankRead (s : State) (c : Nat) (bank : Bank) (v : Byte) (rs : List Byte) (os : List (Option TransportError)) :
    State :=
  { s with
    history := s.history ++ [.send c (gpioRead bank) none, .receive c 1 (.ok [v])]
    oracle := { s.oracle with
      response := ⟨rs, s.oracle.response.used⟩
      outcome := ⟨os, s.oracle.outcome.used⟩ } }

/-- The state after client `c` has written `w` to a bank, and the chip has executed that. -/
def State.bankWritten (s : State) (c : Nat) (bank : Bank) (w : Byte) (os : List (Option TransportError)) : State :=
  { s with
    device := s.device.setBank bank w (dirOf bank)
    history := s.history ++ [.send c (gpioWrite bank w) none]
    oracle := { s.oracle with outcome := ⟨os, s.oracle.outcome.used⟩ } }

theorem State.configured_bankSet (s : State) (c : Nat) (bank : Bank) (w : Byte) (os : List (Option TransportError)) :
    s.configured c [bankSet bank w (dirOf bank)] os = s.bankWritten c bank w os := by
  cases bank <;> rfl

section
variable {s : State} {S : Session} {c : Nat} {cl : Client} {call : Call} {calls : List Call} {rest : List Act}
  {os : List (Option TransportError)} {bank : Bank} {bit : Nat} {level : Bool} {v : Byte} {rs : List Byte}

/-- The lock of `S` is taken. -/
theorem State.during_takeLock (hc : c < s.clients.length) (hS : s.session = some S) :
    (s.during c { cl with calls := calls } ⟨call, .idle, .takeLock :: rest, [], false⟩).runAct c .takeLock rest =
      s.locked S c cl calls call rest := by
  have htaken : s.onSession (·.setLock (.held c)) = s.withSession (S.setLock (.held c)) := by
    rw [State.onSession, hS]
    rfl
  rw [State.locked, ← htaken]
  exact State.during_goOn (s := s.onSession _) hc rest

/-- The lock is released, and the session is `S` again. -/
theorem State.locked_releaseLock (hc : c < s.clients.length) (hS : s.session = some S) (hl : S.lock = .free) :
    (s.locked S c cl calls call (.releaseLock :: rest)).runAct c .releaseLock rest =
      s.during c { cl with calls := calls } ⟨call, .idle, rest, [], false⟩ := by
  have hreleased : (s.withSession (S.setLock (.held c))).onSession (Session.release c) = s := by
    have hfree : (S.setLock (.held c)).release c = S := (if_pos rfl).trans (Session.setLock_free hl)
    rw [State.onSession, State.withSession, Option.map_some, hfree, ← hS]
  have hgo := State.during_goOn (s := (s.withSession (S.setLock (.held c))).onSession (Session.release c))
    (cl := { cl with calls := calls }) (r := ⟨call, .idle, .releaseLock :: rest, [], false⟩) hc rest
  rw [hreleased] at hgo
  rw [← hgo, ← hreleased]
  rfl

/-- The byte read comes back, and decides what is written. -/
theorem State.locked_readBank (hc : c < s.clients.length) (hstream : s.stream = []) (hquiet : s.device.Quiet) :
    ((((s.sent c (gpioRead bank) (none :: os)).withStream []).heldByte v rs).locked S c cl calls call
      (.readBank bank bit level :: rest)).runAct c (.readBank bank bit level) rest =
      (s.bankRead c bank v rs os).locked S c cl calls call
        (gpioWriteBack s.params.gpioRmwAtomic bank bit level v) := by
  let held := (((s.sent c (gpioRead bank) (none :: os)).withStream []).heldByte v rs).withSession (S.setLock (.held c))
  have hreceive : held.receive c 1 = (.bytes [v], held.received c [v] os) :=
    State.receive_all (s := held) c (bs := [v]) rfl hquiet.sync rfl rfl
  have hread : held.received c [v] os = (s.bankRead c bank v rs os).withSession (S.setLock (.held c)) := by
    have hdevice : ({ s.device with rx := [], flushed := 0 } : Device) = s.device := by
      rw [← hquiet.rx, ← hquiet.flushed]
    simp [held, State.received, State.heldByte, State.sent, State.withStream, State.withSession, State.bankRead,
      hdevice, hstream]
  rw [State.runAct, State.locked, State.during_receiveThen hreceive, hread]
  exact State.locked_goOn (s := s.bankRead c bank v rs os) hc _

end

/-! ### One client alone -/

/-- Who has a step depends on the session and the clients. -/
theorem State.ready_congr {s s' : State} (hS : s'.session = s.session) (hcs : s'.clients = s.clients) :
    s'.ready = s.ready := by
  obtain ⟨_, _, _, _, _⟩ := s
  obtain ⟨_, _, _, _, _⟩ := s'
  subst hS hcs
  rfl

section
variable {s s' : State} {S : Session} {c : Nat} {cl : Client} {call : Call} {calls : List Call} {rest : List Act}
  {os : List (Option TransportError)} {bank : Bank} {bit : Nat} {level : Bool} {v : Byte} {rs : List Byte}

/-- `Calling` does not see what the device, the history and the free values are. -/
theorem Calling.congr (h : Calling s S c cl call calls) (hS : s'.session = s.session) (hcs : s'.clients = s.clients)
    (hs : s'.stream = []) (hh : s'.halted = false) : Calling s' S c cl call calls where
  session := hS.trans h.session
  lock := h.lock
  client := hcs ▸ h.client
  calls := h.calls
  running := h.running
  alone := (State.ready_congr hS hcs).trans h.alone
  stream := hs
  halted := hh

/-- A lock region ends and the next one begins: no other client has a step in between. -/
theorem Calling.relocks (h : Calling s S c cl call calls) :
    Reaches (s.locked S c cl calls call (.releaseLock :: .takeLock :: rest)) (s.locked S c cl calls call rest) := by
  refine h.actLocked rfl h.stream h.halted rfl ?_
  rw [State.locked_releaseLock h.lt h.session h.lock]
  exact h.act (by rw [h.session]; rfl) rfl h.stream h.halted rfl (by simpa [State.actPossible] using h.lockFree)
    (.of_eq (State.during_takeLock h.lt h.session))

/-- The read: the chip answers `v`, which the client receives. -/
theorem Calling.readsBank (h : Calling s S c cl call calls) (hquiet : s.device.Quiet)
    (houtcomes : s.oracle.outcome.given = none :: none :: os) (hresponses : s.oracle.response.given = v :: rs) :
    Reaches (s.locked S c cl calls call [.send .idle (gpioRead bank), .readBank bank bit level])
      ((s.bankRead c bank v rs os).locked S c cl calls call
        (gpioWriteBack s.params.gpioRmwAtomic bank bit level v)) := by
  let held := ((s.sent c (gpioRead bank) (none :: os)).withStream []).heldByte v rs
  have hsend : Reaches _ (held.locked S c cl calls call [.readBank bank bit level]) :=
    h.transmits houtcomes (gpioRead_eq bank) (gpioRead_wellFormed bank) (execAll_gpioRead bank hquiet.rx hresponses)
  exact hsend.trans
    (h.actLocked (s' := held) rfl rfl h.halted rfl (.of_eq (State.locked_readBank h.lt h.stream hquiet)))

/-- The write, in the lock region of the read or in its own, and the return. -/
theorem Calling.writesBack (h : Calling s S c cl call calls) (atomic : Bool)
    (houtcomes : s.oracle.outcome.given = none :: os) :
    Reaches (s.locked S c cl calls call (gpioWriteBack atomic bank bit level v))
      ((s.bankWritten c bank (withPin v bit level) os).answered S c cl calls (.ok .unit)) := by
  have hwrite : Reaches (s.locked S c cl calls call (gpioWriteBack true bank bit level v))
      ((s.bankWritten c bank (withPin v bit level) os).answered S c cl calls (.ok .unit)) := by
    rw [gpioWriteBack, if_pos rfl, gpioWrite_eq]
    refine h.sends (bankSet_configures _ _ _) houtcomes (h.actLocked rfl h.stream h.halted rfl (.of_eq ?_))
    rw [State.configured_bankSet]
    exact State.locked_finish (s := s.bankWritten c bank _ os) h.lt h.lock h.running _
  cases atomic with
  | true => exact hwrite
  | false => exact h.relocks.trans hwrite

end

/-! ### One client among others (R56) -/

/-- The state `s` in which the next clients to move, where several can, are given by `picks`. -/
def State.picking (s : State) (picks : List Nat) : State :=
  { s with oracle := { s.oracle with pick := ⟨picks, 0⟩ } }

/-- Some choice of the clients to move leads from `s` to `t`. -/
def MayReach (s t : State) : Prop := ∃ picks, ∀ more, Reaches (s.picking (picks ++ more)) (t.picking more)

theorem MayReach.trans {s t u : State} (h : MayReach s t) (h' : MayReach t u) : MayReach s u := by
  obtain ⟨picks, hpicks⟩ := h
  obtain ⟨picks', hpicks'⟩ := h'
  refine ⟨picks ++ picks', fun more => ?_⟩
  rw [List.append_assoc]
  exact (hpicks _).trans (hpicks' more)

/-- The chip executes the whole stream, whoever is to move then. -/
theorem MayReach.executes {is : List Instr} {s t : State} (hs : s.stream = is.flatMap encode)
    (his : ∀ i ∈ is, i.wellFormed = true)
    (hexec : ∀ picks, execAll is ((s.picking picks).withStream []) = .next (t.picking picks)) : MayReach s t :=
  ⟨[], fun more => .executes (s := s.picking more) hs his (hexec more)⟩

/-- While no command waits, each client that has a step may move: it is chosen by its place among those. -/
theorem MayReach.client {s t : State} {c : Nat} (hc : c ∈ s.ready) (hs : s.stream = []) (hh : s.halted = false)
    (hstep : ∀ picks, (s.picking picks).clientStep c = t.picking picks) : MayReach s t := by
  obtain ⟨n, hn⟩ := List.mem_iff_getElem?.1 hc
  match hready : s.ready with
  | [] => simp [hready] at hc
  | [d] =>
    obtain rfl : c = d := by simpa [hready] using hc
    refine ⟨[], fun more => .single ?_⟩
    rw [← hstep more]
    exact step_alone (s := s.picking more) hready hs hh
  | d :: e :: ds =>
    rw [hready] at hn
    have hplace : (d :: e :: ds).getD (n % (d :: e :: ds).length) d = c := by
      rw [Nat.mod_eq_of_lt (List.getElem?_eq_some_iff.1 hn).1, List.getD_eq_getElem?_getD, hn, Option.getD_some]
    refine ⟨[n], fun more => .single ?_⟩
    have hnot : ¬(s.picking (n :: more)).halted = true := Bool.eq_false_iff.1 hh
    have hready' : (s.picking (n :: more)).ready = d :: e :: ds := hready
    rw [← hstep more, ← hplace, List.singleton_append, step_empty (s := s.picking (n :: more)) hs, State.agentStep,
      if_neg hnot, hready']
    rfl

section
variable {s s' t : State} {S : Session} {c : Nat} {cl : Client} {call : Call} {calls : List Call} {r : Running}
  {a : Act} {rest : List Act} {os : List (Option TransportError)}

/-- The next action of an operation. -/
theorem MayReach.act (hc : c < s.clients.length) (hs : s.stream = []) (hh : s.halted = false) (ht : r.todo = a :: rest)
    (hp : s.actPossible r = true)
    (hact : ∀ picks, ((s.picking picks).during c cl r).runAct c a rest = t.picking picks) :
    MayReach (s.during c cl r) t := by
  refine .client (c := c) (State.mem_ready.2 ⟨_, State.during_getElem? hc, hp⟩) hs hh fun picks => ?_
  rw [← hact picks, State.clientStep,
    show ((s.during c cl r).picking picks).clients[c]? = _ from State.during_getElem? (cl := cl) (r := r) hc]
  simp only [ht]
  rfl

/-- The lock of `S` is free, and the chip has nothing to execute. -/
structure Resting (s : State) (S : Session) : Prop where
  session : s.session = some S
  lock : S.lock = .free
  stream : s.stream = []
  halted : s.halted = false

/-- An operation about to take the lock. -/
theorem Resting.takesLock (h : Resting s S) (hc : c < s.clients.length) :
    MayReach (s.during c { cl with calls := calls } ⟨call, .idle, .takeLock :: rest, [], false⟩)
      (s.locked S c cl calls call rest) :=
  .act hc h.stream h.halted rfl (by simp [State.actPossible, State.lockFree, h.session, h.lock])
    fun picks => State.during_takeLock (s := s.picking picks) hc h.session

/-- The next action of the operation that holds the lock. -/
theorem Resting.actLocked (h : Resting s S) (hc : c < s.clients.length) (ha : a.runsInSession = true)
    (hact : ∀ picks, ((s.picking picks).locked S c cl calls call (a :: rest)).runAct c a rest = t.picking picks) :
    MayReach (s.locked S c cl calls call (a :: rest)) t :=
  .act (s := s.withSession _) hc h.stream h.halted rfl (State.actPossible_of_session rfl ha rfl rfl) hact

/-- A `Send` that succeeds, and its execution. -/
theorem Resting.transmits {is : List Instr} {bs : List Byte} (h : Resting s S) (hc : c < s.clients.length)
    (hgiven : s.oracle.outcome.given = none :: os) (hbs : bs = is.flatMap encode)
    (his : ∀ i ∈ is, i.wellFormed = true)
    (hexec : ∀ picks, execAll is ((((s.picking picks).sent c bs os).withStream []).locked S c cl calls call rest) =
      .next ((s'.picking picks).locked S c cl calls call rest)) :
    MayReach (s.locked S c cl calls call (.send .idle bs :: rest)) (s'.locked S c cl calls call rest) := by
  have hsend : MayReach (s.locked S c cl calls call (.send .idle bs :: rest))
      ((s.sent c bs os).locked S c cl calls call rest) := by
    refine h.actLocked hc rfl fun picks => ?_
    have hsent := ((s.picking picks).withSession (S.setLock (.held c))).send_given_none c bs hgiven
    rw [State.runAct, State.locked, State.during_sendThen (s := (s.picking picks).withSession _) hc hsent]
    rfl
  refine hsend.trans (.executes (is := is) ?_ his hexec)
  show s.stream ++ bs = _
  rw [h.stream, List.nil_append, hbs]

end

/-! ### The two lock regions among other clients (R245) -/

/-- Client `c`, as `cl`, is about to set its pin `pin` to `level`; `calls` come after that. -/
structure SetsPin (s : State) (c : Nat) (cl : Client) (h : Nat) (pin : PinHandle) (level : Bool) (calls : List Call) :
    Prop where
  client : s.clients[c]? = some cl
  running : cl.running = none
  calls : cl.calls = gpioSet h level :: calls
  pin : cl.pin h = some pin

/-- The client between its two lock regions, with `w` to write to the bank. -/
def Client.aboutToWrite (cl : Client) (calls : List Call) (call : Call) (bank : Bank) (w : Byte) : Client :=
  { cl with
    calls := calls
    running := some ⟨call, .idle, [.takeLock, .send .idle (gpioWrite bank w), .done .unit], [], false⟩ }

section
variable {s : State} {S : Session} {c d : Nat} {cl cl' : Client} {call : Call} {calls calls' : List Call} {h h' : Nat}
  {pin pin' : PinHandle} {level level' : Bool} {os : List (Option TransportError)} {bank : Bank} {v w : Byte}
  {rs : List Byte}

theorem SetsPin.lt (hset : SetsPin s c cl h pin level calls) : c < s.clients.length :=
  (List.getElem?_eq_some_iff.1 hset.client).1

theorem SetsPin.starts (hset : SetsPin s c cl h pin level calls) (hrest : Resting s S) :
    MayReach s
      (s.during c { cl with calls := calls } ⟨gpioSet h level, .idle, gpioPlan pin level, [], false⟩) := by
  have hS : s.session.isSome = true := by rw [hrest.session]; rfl
  have hstep : s.clientHasStep cl = true := by
    simp [State.clientHasStep, hset.running, hset.calls, State.callPossible_gpioSet level hS hset.pin]
  refine .client (State.mem_ready.2 ⟨cl, hset.client, hstep⟩) hrest.stream hrest.halted fun picks => ?_
  rw [State.clientStep, show (s.picking picks).clients[c]? = some cl from hset.client]
  simp only [hset.running, hset.calls, State.startCall_gpioSet _ c level calls hset.pin]
  rfl

/-- The read region without `GPIO_RMW_ATOMIC`, from the call to the release of the lock. -/
theorem SetsPin.mayRead (hset : SetsPin s c cl h pin level calls) (hrest : Resting s S)
    (hatomic : s.params.gpioRmwAtomic = false) (hquiet : s.device.Quiet)
    (houtcomes : s.oracle.outcome.given = none :: none :: os) (hresponses : s.oracle.response.given = v :: rs) :
    MayReach s ((s.bankRead c pin.bank v rs os).setClient c
      (cl.aboutToWrite calls (gpioSet h level) pin.bank (withPin v pin.bit level))) := by
  let held := ((s.sent c (gpioRead pin.bank) (none :: os)).withStream []).heldByte v rs
  have hheld : Resting held S := ⟨hrest.session, hrest.lock, rfl, hrest.halted⟩
  have hbank : Resting (s.bankRead c pin.bank v rs os) S := ⟨hrest.session, hrest.lock, hrest.stream, hrest.halted⟩
  have hsend : MayReach _ (held.locked S c cl calls (gpioSet h level) [.readBank pin.bank pin.bit level]) :=
    hrest.transmits hset.lt houtcomes (gpioRead_eq _) (gpioRead_wellFormed _) fun _ =>
      execAll_gpioRead pin.bank hquiet.rx hresponses
  have hread : MayReach _ ((s.bankRead c pin.bank v rs os).locked S c cl calls (gpioSet h level)
      (gpioWriteBack s.params.gpioRmwAtomic pin.bank pin.bit level v)) :=
    hheld.actLocked (rest := []) hset.lt rfl fun picks =>
      State.locked_readBank (s := s.picking picks) hset.lt hrest.stream hquiet
  rw [hatomic] at hread
  exact (hset.starts hrest).trans <| (hrest.takesLock hset.lt).trans <| hsend.trans <| hread.trans <|
    hbank.actLocked hset.lt rfl fun picks =>
      State.locked_releaseLock (s := (s.bankRead c pin.bank v rs os).picking picks) hset.lt hrest.session hrest.lock

/-- The write region, from the taking of the lock to the return. -/
theorem Resting.mayWrite (hrest : Resting s S) (hcl : s.clients[c]? = some (cl.aboutToWrite calls call bank w))
    (hrun : cl.running = none) (houtcomes : s.oracle.outcome.given = none :: os) :
    MayReach s ((s.bankWritten c bank w os).answered S c cl calls (.ok .unit)) := by
  let written := s.bankWritten c bank w os
  have hc : c < s.clients.length := (List.getElem?_eq_some_iff.1 hcl).1
  have hwritten : Resting written S := ⟨hrest.session, hrest.lock, hrest.stream, hrest.halted⟩
  have htake : MayReach s (s.locked S c cl calls call [.send .idle (gpioWrite bank w), .done .unit]) := by
    have hs : s.during c { cl with calls := calls } ⟨call, .idle, _, [], false⟩ = s :=
      (State.eq_during hcl rfl).symm
    have htaken := hrest.takesLock (cl := cl) (calls := calls) (call := call)
      (rest := [.send .idle (gpioWrite bank w), .done .unit]) hc
    rwa [hs] at htaken
  have hwf : ∀ i ∈ [bankSet bank w (dirOf bank)], i.wellFormed = true := fun i hi =>
    Instr.wellFormed_of_configures (List.all_eq_true.1 (bankSet_configures _ _ _) i hi)
  have hsend : MayReach (s.locked S c cl calls call [.send .idle (gpioWrite bank w), .done .unit])
      (written.locked S c cl calls call [.done .unit]) := by
    refine hrest.transmits hc houtcomes (gpioWrite_eq _ _) hwf fun picks => ?_
    have hchip : written = (s.configured c [bankSet bank w (dirOf bank)] os).withStream [] := by
      rw [State.configured_bankSet, ← hrest.stream]
      rfl
    rw [execAll_of_configures _ (bankSet_configures _ _ _), gpioWrite_eq, hchip]
    rfl
  exact htake.trans <| hsend.trans <| hwritten.actLocked hc rfl fun picks =>
    State.locked_finish (s := written.picking picks) hc hrest.lock hrun _

/-- After the read region the lock is free again. -/
theorem Resting.bankRead (hrest : Resting s S) : Resting ((s.bankRead c bank v rs os).setClient d cl) S :=
  ⟨hrest.session, hrest.lock, hrest.stream, hrest.halted⟩

/-- After the write region the lock is free again. -/
theorem Resting.bankWritten {res : Result} (hrest : Resting s S) :
    Resting ((s.bankWritten c bank w os).answered S d cl calls res) S :=
  ⟨rfl, hrest.lock, hrest.stream, hrest.halted⟩

/-- Two clients, both of which read before either writes: the second write is made of the second read, which the first
write had not reached. -/
theorem SetsPin.mayLoseUpdate {v' : Byte} (hc : SetsPin s c cl h pin level calls)
    (hd : SetsPin s d cl' h' pin' level' calls') (hne : c ≠ d) (hrest : Resting s S)
    (hatomic : s.params.gpioRmwAtomic = false) (hquiet : s.device.Quiet)
    (houtcomes : s.oracle.outcome.given = List.replicate 6 none) (hresponses : s.oracle.response.given = [v, v']) :
    ∃ t : State, MayReach s t ∧
      t.device = (s.device.setBank pin.bank (withPin v pin.bit level) (dirOf pin.bank)).setBank pin'.bank
        (withPin v' pin'.bit level') (dirOf pin'.bank) ∧
      t.history = s.history ++
        ([.send c (gpioRead pin.bank) none, .receive c 1 (.ok [v]), .send d (gpioRead pin'.bank) none,
          .receive d 1 (.ok [v']), .send c (gpioWrite pin.bank (withPin v pin.bit level)) none,
          .send d (gpioWrite pin'.bank (withPin v' pin'.bit level')) none] : List Event) := by
  have hread := hc.mayRead hrest hatomic hquiet houtcomes hresponses
  set s₁ := State.setClient _ _ _
  have hrest₁ : Resting s₁ S := hrest.bankRead
  have hd₁ : SetsPin s₁ d cl' h' pin' level' calls' :=
    ⟨(List.getElem?_set_ne hne).trans hd.client, hd.running, hd.calls, hd.pin⟩
  have hread' := hd₁.mayRead hrest₁ hatomic hquiet rfl rfl
  set s₂ := State.setClient (s₁.bankRead _ _ _ _ _) _ _
  have hrest₂ : Resting s₂ S := hrest₁.bankRead
  have hc₂ : s₂.clients[c]? = some (cl.aboutToWrite calls (gpioSet h level) pin.bank (withPin v pin.bit level)) :=
    (List.getElem?_set_ne hne.symm).trans (List.getElem?_set_self hc.lt)
  have hwrite := hrest₂.mayWrite (cl := cl) hc₂ hc.running rfl
  set s₃ := State.answered _ _ _ _ _ _
  have hrest₃ : Resting s₃ S := hrest₂.bankWritten
  have hd₃ : s₃.clients[d]? =
      some (cl'.aboutToWrite calls' (gpioSet h' level') pin'.bank (withPin v' pin'.bit level')) :=
    (List.getElem?_set_ne hne).trans (List.getElem?_set_self hd₁.lt)
  have hwrite' := hrest₃.mayWrite (cl := cl') hd₃ hd.running rfl
  refine ⟨_, hread.trans (hread'.trans (hwrite.trans hwrite')), rfl, ?_⟩
  show ((s.history ++ _) ++ _) ++ _ ++ _ = _
  simp only [List.append_assoc, List.cons_append, List.nil_append]

end

/-! ### The obligations -/

/-- Settles O50: the bank is read, and the byte read is written back with the one bit changed. -/
theorem gpioSetWritesBackTheByteRead : Obligations.GpioSetWritesBackTheByteRead := by
  intro s S c cl h pin level v rs os calls hcall hpin hquiet _ houtcomes hresponses
  have hplan := planOf_gpioSet s.params level hpin
  replace hcall : Calling s S c cl (gpioSet h level) calls := hcall
  have hlocked := hcall.toLocked (gpioSet_ne_teardown h level) hplan (.refl _)
  rw [cl.dropped_gpioSet] at hlocked
  have hread := hcall.readsBank (bank := pin.bank) (bit := pin.bit) (level := level) hquiet houtcomes hresponses
  have hcall' : Calling (s.bankRead c pin.bank v rs (none :: os)) S c cl (gpioSet h level) calls :=
    hcall.congr rfl rfl hcall.stream hcall.halted
  have hwrite := hcall'.writesBack (bank := pin.bank) (bit := pin.bit) (level := level) (v := v)
    s.params.gpioRmwAtomic rfl
  refine ⟨_, withPin v pin.bit level, hlocked.trans (hread.trans hwrite),
    fun i hi => withPin_getLsbD v pin.bit level hi, rfl, rfl, rfl, ?_⟩
  obtain ⟨bank, bit⟩ := pin
  cases bank with
  | low | high => exact ⟨rfl, List.append_assoc _ _ _⟩

/-- Settles O51: each client's read region comes before either's write region. -/
theorem gpioLostUpdate : Obligations.GpioLostUpdate := by
  intro s S hatomic hsession hlock hquiet hstream hhalted hhistory hclients hresponses houtcomes
  have hfirst : SetsPin s 0 _ 0 ⟨.high, 0⟩ true [] := ⟨by rw [hclients]; rfl, rfl, rfl, rfl⟩
  have hsecond : SetsPin s 1 _ 0 ⟨.high, 1⟩ true [] := ⟨by rw [hclients]; rfl, rfl, rfl, rfl⟩
  obtain ⟨t, ⟨picks, hreach⟩, hdevice, hrecord⟩ := hfirst.mayLoseUpdate hsecond Nat.zero_ne_one
    ⟨hsession, hlock, hstream, hhalted⟩ hatomic hquiet houtcomes hresponses
  rw [hhistory] at hrecord
  refine ⟨picks ++ [], t.picking [], hreach [], ?_, hrecord⟩
  exact congrArg (·.latch.high) hdevice

end Sys2Proof.Machine
end
